-- ==== Sys2Proof/Word.lean ====
section
/-! DEFINITION. The word types of the MiniOTA Transfer Block (00_scope.md R8: `u8`, `u16`, `u32`).
Every other width (the 11-bit RXB event, the 11-bit payload counter) is written as a `BitVec` where it stands. -/

namespace Sys2Proof

/-- `u8`: a wire byte, a storage byte, a block number (R8). -/
abbrev Byte := BitVec 8

/-- `u16`: a checksum (R27, R28) or the length operand `L` of a host command (R73). -/
abbrev Half := BitVec 16

/-- `u32`: a storage address held in a register or an operand, and the value of a response (R73, R74). -/
abbrev Word := BitVec 32

end Sys2Proof
end

