-- ==== Sys2Proof/Syntax.lean ====
section
/-! DEFINITION. The instructions of the block (spec/opcode_table.json, 30_encoding.md R63): ten received-byte rules
and seven host commands, one constructor per row of the table; the protocol state that an RXB event carries (R64,
R65); and the host command record (R73). -/

namespace Sys2Proof

/-- The six protocol states (R19, R65). Codes 6 and 7 have no constructor, so no rule can hold one (R72). -/
inductive XState where
  | waitStart
  | waitBlockNum
  | waitBlockInv
  | waitData
  | waitCrcHigh
  | waitCrcLow
  deriving DecidableEq, Repr, Inhabited

/-- One constructor per row of spec/opcode_table.json. The four control rows of `WaitStart` carry no operand: their
byte is fixed by the row. -/
inductive Instr where
  /-- XFR_SOH (R110). -/
  | xfrSoh
  /-- XFR_STX (R111). -/
  | xfrStx
  /-- XFR_EOT (R112). -/
  | xfrEot
  /-- XFR_CAN (R113). -/
  | xfrCan
  /-- XFR_NOISE (R114): any byte in `WaitStart` but the four control bytes. -/
  | xfrNoise (b : Byte)
  /-- XFR_BLKNUM (R115). -/
  | xfrBlknum (b : Byte)
  /-- XFR_BLKINV (R116). -/
  | xfrBlkinv (b : Byte)
  /-- XFR_DATA (R117). -/
  | xfrData (b : Byte)
  /-- XFR_CRCHI (R118). -/
  | xfrCrchi (b : Byte)
  /-- XFR_CRCLO (R119). -/
  | xfrCrclo (b : Byte)
  /-- XFR_START (R129). -/
  | xfrStart
  /-- XFR_PROBE (R130). -/
  | xfrProbe
  /-- RDREG `N` (R131). -/
  | rdreg (n : Byte)
  /-- FWE_INIT `A` (R93). -/
  | fweInit (a : Word)
  /-- FWE_STAGE `L`, `D` (R96). -/
  | fweStage (l : Half) (d : List Byte)
  /-- FWE_FLUSH (R105). -/
  | fweFlush
  /-- VER_VERIFY `A` (R86). -/
  | verVerify (a : Word)
  deriving DecidableEq, Repr

/-- The record form of a host command, `{OP: u8, A: u32, L: u16, D: bytes, N: u8}` (R73). Each opcode uses only the
operands that the table of R75 gives it. -/
structure Command where
  op : Byte
  a : Word
  l : Half
  d : List Byte
  n : Byte
  deriving DecidableEq, Repr

end Sys2Proof
end

