-- ==== Sys2Proof/WellFormed.lean ====
section
/-! DEFINITION. Which terms of `Instr` stand for an instruction of the spec: the two checks that the syntax alone
does not make. -/

namespace Sys2Proof

/-- The four bytes that `WaitStart` recognises: SOH, STX, EOT and CAN (R66, R67). -/
def controlBytes : List Byte := [0x01, 0x02, 0x04, 0x18]

/-- XFR_NOISE stands for the 253 values that are no control byte (R67, R114: the count the table gives is 253, and
256 less the four control bytes is 252, see notes/assumptions/12.md); FWE_STAGE carries exactly `L` bytes (R73, R96).
Every other term stands for an instruction whatever its operands: a register number above 6 is legal and answers
`E_BAD_REG` (R131), an address of any alignment is legal and may answer `E_MISALIGNED` (R93). -/
def Instr.wellFormed : Instr → Bool
  | .xfrNoise b => !controlBytes.contains b
  | .fweStage l d => d.length == l.toNat
  | .xfrSoh | .xfrStx | .xfrEot | .xfrCan => true
  | .xfrBlknum _ | .xfrBlkinv _ | .xfrData _ | .xfrCrchi _ | .xfrCrclo _ => true
  | .xfrStart | .xfrProbe | .rdreg _ | .fweInit _ | .fweFlush | .verVerify _ => true

end Sys2Proof
end

