-- ==== Sys2Proof/Decode.lean ====
section
/-! DEFINITION. The decoder, total on any RXB event, host command record and command byte string, rejecting by name; and
the encoder, written from the same tables (30_encoding.md R63 to R76; spec/opcode_table.json). -/

namespace Sys2Proof

/-! ### Byte order -/

/-- The value of a byte sequence whose first byte is least significant (R8 `le16`, `le32`). -/
def leNat : List Byte → Nat
  | [] => 0
  | b :: bs => b.toNat + 256 * leNat bs

/-- The `n` bytes of `v`, least significant first. -/
def leBytes : Nat → Nat → List Byte
  | 0, _ => []
  | n + 1, v => BitVec.ofNat 8 v :: leBytes n (v / 256)

/-! ### RXB events -/

/-- The codes of R65. -/
def XState.code : XState → BitVec 3
  | .waitStart => 0
  | .waitBlockNum => 1
  | .waitBlockInv => 2
  | .waitData => 3
  | .waitCrcHigh => 4
  | .waitCrcLow => 5

/-- The state of a code; none for the reserved codes 6 and 7 (R65, R72). -/
def XState.ofCode (s : BitVec 3) : Option XState :=
  match s.toNat with
  | 0 => some .waitStart
  | 1 => some .waitBlockNum
  | 2 => some .waitBlockInv
  | 3 => some .waitData
  | 4 => some .waitCrcHigh
  | 5 => some .waitCrcLow
  | _ => none

/-- `E = {S, B}` (R64). -/
def rxEvent (s : BitVec 3) (b : Byte) : BitVec 11 := s ++ b

/-- Why a decoder gives no instruction. -/
inductive DecodeError where
  /-- An RXB event with `S = 6` or `S = 7` (R72). -/
  | reservedState
  /-- An opcode that the table of R75 does not hold (R76). -/
  | illegalOpcode (op : Byte)
  /-- A command whose `D` does not hold exactly `L` bytes (R73). -/
  | badLength
  /-- A command byte string that ends before its operands do (R73). -/
  | truncated
  deriving DecidableEq, Repr

/-- The byte rule of `WaitStart` (R67): the four control rows first, then XFR_NOISE. -/
def decodeWaitStart (b : Byte) : Instr :=
  if b = 0x01 then .xfrSoh
  else if b = 0x02 then .xfrStx
  else if b = 0x04 then .xfrEot
  else if b = 0x18 then .xfrCan
  else .xfrNoise b

/-- Exactly one byte rule for each state and byte (R67). -/
def decodeByte (x : XState) (b : Byte) : Instr :=
  match x with
  | .waitStart => decodeWaitStart b
  | .waitBlockNum => .xfrBlknum b
  | .waitBlockInv => .xfrBlkinv b
  | .waitData => .xfrData b
  | .waitCrcHigh => .xfrCrchi b
  | .waitCrcLow => .xfrCrclo b

/-- The 11-bit event (R64, R67). A reserved `S` is rejected: it does not fall back to `WaitStart` (R72). -/
def decodeEvent (e : BitVec 11) : Except DecodeError Instr :=
  match XState.ofCode (e.extractLsb' 8 3) with
  | some x => .ok (decodeByte x (e.extractLsb' 0 8))
  | none => .error .reservedState

/-! ### Host commands -/

/-- The record form (R73, R75). An opcode outside the table is illegal (R76); `D` is exactly `L` bytes (R73). -/
def decodeCommand (c : Command) : Except DecodeError Instr :=
  match c.op.toNat with
  | 0x01 => .ok .xfrStart
  | 0x02 => .ok .xfrProbe
  | 0x03 => .ok (.rdreg c.n)
  | 0x10 => .ok (.fweInit c.a)
  | 0x11 => if c.d.length = c.l.toNat then .ok (.fweStage c.l c.d) else .error .badLength
  | 0x12 => .ok .fweFlush
  | 0x20 => .ok (.verVerify c.a)
  | _ => .error (.illegalOpcode c.op)

/-- A record with every operand zero. -/
def Command.bare (op : Byte) : Command where
  op := op
  a := 0
  l := 0
  d := []
  n := 0

/-- Reads the `n` first bytes as a little-endian number (R73). -/
def takeLe (n : Nat) (bs : List Byte) : Except DecodeError (Nat × List Byte) :=
  if bs.length < n then .error .truncated else .ok (leNat (bs.take n), bs.drop n)

/-- One command that travels as bytes, and the bytes after it: `OP`, then the operands its opcode uses, in the order
`A`, `N`, `L`, `D` (R73). An illegal opcode is one byte. -/
def parseCommand (bs : List Byte) : Except DecodeError (Command × List Byte) :=
  match bs with
  | [] => .error .truncated
  | op :: rest =>
    match op.toNat with
    | 0x03 =>
      match takeLe 1 rest with
      | .ok (n, rest) => .ok ({ Command.bare op with n := BitVec.ofNat 8 n }, rest)
      | .error e => .error e
    | 0x10 | 0x20 =>
      match takeLe 4 rest with
      | .ok (a, rest) => .ok ({ Command.bare op with a := BitVec.ofNat 32 a }, rest)
      | .error e => .error e
    | 0x11 =>
      match takeLe 2 rest with
      | .ok (l, rest) =>
        if rest.length < l then .error .truncated
        else .ok ({ Command.bare op with l := BitVec.ofNat 16 l, d := rest.take l }, rest.drop l)
      | .error e => .error e
    | _ => .ok (Command.bare op, rest)

/-- The instruction at the head of a command byte string, and the bytes after it. -/
def decodeBytes (bs : List Byte) : Except DecodeError (Instr × List Byte) :=
  match parseCommand bs with
  | .error e => .error e
  | .ok (c, rest) =>
    match decodeCommand c with
    | .error e => .error e
    | .ok i => .ok (i, rest)

/-! ### Encoder -/

/-- The words of an instruction: an 11-bit RXB event, or a host command (R63). -/
inductive Encoded where
  | event (e : BitVec 11)
  | command (c : Command)
  deriving DecidableEq, Repr

/-- The encoding of each row of spec/opcode_table.json (R65, R67, R75). -/
def encode : Instr → Encoded
  | .xfrSoh => .event 0x001
  | .xfrStx => .event 0x002
  | .xfrEot => .event 0x004
  | .xfrCan => .event 0x018
  | .xfrNoise b => .event (rxEvent 0 b)
  | .xfrBlknum b => .event (rxEvent 1 b)
  | .xfrBlkinv b => .event (rxEvent 2 b)
  | .xfrData b => .event (rxEvent 3 b)
  | .xfrCrchi b => .event (rxEvent 4 b)
  | .xfrCrclo b => .event (rxEvent 5 b)
  | .xfrStart => .command (Command.bare 0x01)
  | .xfrProbe => .command (Command.bare 0x02)
  | .rdreg n => .command { Command.bare 0x03 with n := n }
  | .fweInit a => .command { Command.bare 0x10 with a := a }
  | .fweStage l d => .command { Command.bare 0x11 with l := l, d := d }
  | .fweFlush => .command (Command.bare 0x12)
  | .verVerify a => .command { Command.bare 0x20 with a := a }

/-- The decoder over either format. -/
def decode : Encoded → Except DecodeError Instr
  | .event e => decodeEvent e
  | .command c => decodeCommand c

/-- The bytes of a host command: `OP`, then the operands the opcode uses, in the order `A`, `N`, `L`, `D`; `A` and `L`
little-endian (R73). None for a byte rule, which no host presents. -/
def encodeBytes : Instr → Option (List Byte)
  | .xfrStart => some [0x01]
  | .xfrProbe => some [0x02]
  | .rdreg n => some [0x03, n]
  | .fweInit a => some (0x10 :: leBytes 4 a.toNat)
  | .fweStage l d => some (0x11 :: leBytes 2 l.toNat ++ d)
  | .fweFlush => some [0x12]
  | .verVerify a => some (0x20 :: leBytes 4 a.toNat)
  | .xfrSoh | .xfrStx | .xfrEot | .xfrCan | .xfrNoise _ | .xfrBlknum _ | .xfrBlkinv _ | .xfrData _ | .xfrCrchi _
  | .xfrCrclo _ => none

/-! ### The words of spec/opcode_table.json -/

/-- The command bytes of a table word: the first byte holds bits 7..0, and the bytes above `nbits` are zero. Seven
bytes hold the opcode and the longest fixed operands. -/
def tableBytes (nbits w : Nat) : List Byte := leBytes (max 7 ((nbits + 7) / 8)) w

/-- Whether a table word of `nbits` bits is an RXB event: its rows take 11 bits, 16 in whole bytes; a CMD row takes
8 (R63, spec/opcode_table.json; notes/assumptions/11.md). -/
def isEventWidth (nbits : Nat) : Bool := 8 < nbits && nbits ≤ 16

/-- The instruction the decoder reads from a word of spec/opcode_table.json. -/
def decodeTableWord (nbits w : Nat) : Option Instr :=
  if isEventWidth nbits then
    if w < 2 ^ 11 then (decodeEvent (BitVec.ofNat 11 w)).toOption else none
  else (decodeBytes (tableBytes nbits w)).toOption.map Prod.fst

end Sys2Proof
end

