-- ==== Sys2Proof/Machine/Crc.lean ====
section
/-! DEFINITION. `CRC16`, the CRC-16/XMODEM of 41_image_verifier.md R83: polynomial 0x1021, initial value 0, no
reflection, final XOR 0. -/

namespace Sys2Proof.Machine

/-- `n` shifts of the register, most significant bit first (R83: the inner loop). -/
def crcShift : Nat → Half → Half
  | 0, c => c
  | n + 1, c => if c.msb then crcShift n ((c <<< 1) ^^^ 0x1021) else crcShift n (c <<< 1)

/-- One byte: it enters at bits 15:8, then eight shifts (R83). -/
def crcByte (c : Half) (b : Byte) : Half := crcShift 8 (c ^^^ (b ++ 0#8 : BitVec 16))

/-- The bytes in order, from register value `c`. -/
def crcFrom : Half → List Byte → Half
  | c, [] => c
  | c, b :: bs => crcFrom (crcByte c b) bs

/-- `CRC16(s)` (R83). -/
def crc16 (s : List Byte) : Half := crcFrom 0 s

end Sys2Proof.Machine
end

