-- ==== Sys2Proof/Config.lean ====
section
/-! DEFINITION. What one build of the block fixes (00_scope.md R5, 30_encoding.md R78), as plain data, and the free
values (20_memory.md R49): constants with no body, so that nothing in Lean can tell their value. -/

namespace Sys2Proof

/-- The byte order of the header fields VER reads (R53 (c), R77, R78). -/
inductive ByteOrder where
  | little
  | big
  deriving DecidableEq, Repr

/-- `MIRROR_AFTER_FLUSH` (R5, R103). -/
inductive MirrorPolicy where
  | reload
  | keep
  deriving DecidableEq, Repr

/-- `EOT_FLUSH_FAIL` (R5, R112): the transfer status after an EOT whose flush fails. -/
inductive EotFailPolicy where
  | interrupted
  | finished
  deriving DecidableEq, Repr

/-- `PROGRAM_SEMANTICS` (R5, R48). -/
inductive ProgramSemantics where
  | overwrite
  | andBits
  deriving DecidableEq, Repr

/-- The whole header layout as one record (R78): the offset and width in bytes of each field of R77, the byte order,
`HDR_SIZE` and `HDR_MAGIC`. The checksum's width is no field: the source settles it at 16 bits (R77, R78). The
source settles the field order too; the record admits any order (DESIGN CHOICE, notes/assumptions/24.md). -/
structure HeaderLayout where
  /-- `HDR_SIZE` (R5); any number, 16 in the default record (DESIGN CHOICE, notes/assumptions/25.md). -/
  hdrSize : Nat
  magicOffset : Nat
  magicWidth : Nat
  sizeOffset : Nat
  sizeWidth : Nat
  versionOffset : Nat
  versionWidth : Nat
  checksumOffset : Nat
  reservedOffset : Nat
  reservedWidth : Nat
  order : ByteOrder
  /-- `HDR_MAGIC` (R5). R78 lets a build choose the field's width and no rule bounds the magic by it, so it is a number of
  any size; a header whose field cannot hold it never verifies (DESIGN CHOICE, notes/assumptions/22.md). -/
  magic : Nat
  deriving DecidableEq, Repr

/-- The parameters of R5, one value for each. `ADDR_W = 32` and `MAX_PAYLOAD = 1024` are fixed by R5 and are no
fields. Which records are a configuration of the block is `Machine.configValid` (R6). -/
structure Config where
  /-- `PAGE_SIZE`. -/
  pageSize : Nat
  /-- `PROG_UNIT`. -/
  progUnit : Nat
  /-- `ERASED_BYTE`. -/
  erasedByte : Byte
  /-- `STORAGE_BASE`. -/
  storageBase : Nat
  /-- `STORAGE_SIZE`. -/
  storageSize : Nat
  /-- `UPDATE_BASE`. -/
  updateBase : Nat
  /-- `UPDATE_SIZE`. -/
  updateSize : Nat
  header : HeaderLayout
  mirrorAfterFlush : MirrorPolicy
  eotFlushFail : EotFailPolicy
  programSemantics : ProgramSemantics
  deriving DecidableEq, Repr

/-- The default header record of R77, with the example magic of R5 (invented by the spec, N17). -/
def HeaderLayout.standard : HeaderLayout where
  hdrSize := 16
  magicOffset := 0
  magicWidth := 4
  sizeOffset := 4
  sizeWidth := 4
  versionOffset := 8
  versionWidth := 4
  checksumOffset := 12
  reservedOffset := 14
  reservedWidth := 2
  order := .little
  magic := 0x5AA5C33C

/-- The "example" column of R5, the configuration of 95_test_vectors.md. DESIGN CHOICE
(notes/assumptions/2.md): it is the configuration `State.reset` starts from; R5 calls it "not a claim about any build",
and every statement ranges over all configurations. -/
def Config.exampleColumn : Config where
  pageSize := 1024
  progUnit := 2
  erasedByte := 0xFF
  storageBase := 0x08000000
  storageSize := 0x00010000
  updateBase := 0x08004000
  updateSize := 0x00008400
  header := .standard
  mirrorAfterFlush := .reload
  eotFlushFail := .interrupted
  programSemantics := .overwrite

/-- What a fallible port operation returns (R9, R46 to R48). -/
inductive PortResult where
  | ok
  | fail
  deriving DecidableEq, Repr, Inhabited

/-! ### Free values (notes/assumptions/4.md and 9.md)

Each is applied to the number of the draw, a counter in `State`, so that every draw is fresh. -/

/-- The `Ok | Fail` outcome of draw number `n` (R46 to R49). Free value. -/
opaque Config.freeResult : Nat → PortResult

/-- Byte `i` of the "any byte" values of draw number `n` (R45, R47 to R49). Free value. -/
opaque Config.freeByte : Nat → Nat → Byte

/-- The silent program error of draw number `n` (R48): for each byte of the unit, `none` where it is programmed as
asked, `some b` where `b` lands instead. Free value. -/
opaque Config.freeMisWrite : Nat → List (Option Byte)

/-- Whether the byte goes before the host command, where both are ready and the schedule does not say (R143).
Free value. -/
opaque Config.freeByteFirst : Nat → Bool

end Sys2Proof
end

