-- ==== Sys2Proof/Machine/State.lean ====
section
/-! DEFINITION. The state of the block (10_state.md R10), of its ports (R33, 20_memory.md), and the inputs that the two
agents and the storage oracle give it, all as plain data; the reasons a step can stop; and the state after power-on
reset (R39). -/

namespace Sys2Proof.Machine

/-- The transfer status (R20). -/
inductive XStatus where
  | idle
  | inProgress
  | finished
  | interrupted
  deriving DecidableEq, Repr, Inhabited

/-- The storage fault causes (R136); code 7 is never written, so it has no constructor. -/
inductive FaultCause where
  /-- `FC_NONE`. -/
  | none
  /-- `FC_UNLOCK`. -/
  | unlock
  /-- `FC_ERASE`. -/
  | erase
  /-- `FC_PROGRAM`. -/
  | program
  /-- `FC_VERIFY`. -/
  | verify
  /-- `FC_LOCK`. -/
  | lock
  /-- `FC_NOT_INIT`. -/
  | notInit
  deriving DecidableEq, Repr, Inhabited

/-- The response codes (R134); codes 0x09 to 0xFF are never returned, so they have no constructor. -/
inductive RespCode where
  | ok
  | badCmd
  | busy
  | notInit
  | misaligned
  | range
  | overflow
  | flushFail
  | badReg
  deriving DecidableEq, Repr, Inhabited

/-- `respond(code, value)` (R74). -/
structure Response where
  code : RespCode
  value : Word
  deriving DecidableEq, Repr

/-- One entry of the diagnostic log (R151). -/
inductive Diag where
  | noise (b : Byte)
  | badComplement (blk blkInv : Byte)
  | badCrc (crcRx crcCalc : Half)
  | badSequence (blk expectedBlk : Byte)
  | storageFault (cause : FaultCause)
  deriving DecidableEq, Repr

/-- Storage contents: (address, byte) pairs in the canonical form `Memory.wf`. An address that is not listed reads as
`ERASED_BYTE` (notes/assumptions/3.md). -/
abbrev Memory := List Host.Cell

/-- One draw of the storage oracle (R49), for one port operation. -/
structure Draw where
  /-- `Ok` or `Fail`. -/
  result : PortResult
  /-- The values of "any byte", from byte 0; a byte that is not listed is free (`Config.freeByte`). -/
  anyBytes : List Byte
  /-- The silent program error (R48): `some b` where `b` lands in place of the byte programmed. A byte that is not
  listed is programmed as asked. -/
  misWrite : List (Option Byte)
  deriving DecidableEq, Repr

/-- What the oracle's script says of one port operation: a draw, or a port that never becomes ready (R50). -/
inductive ScriptEntry where
  | draw (d : Draw)
  | never
  deriving DecidableEq, Repr

/-- How the oracle goes on after its script: with free values, or as the fault-free oracle of R49. -/
inductive OracleTail where
  | free
  | faultFree
  deriving DecidableEq, Repr

/-- What the schedule lets go first: the byte that waits, the command that waits, or a power-on reset (R143, R155,
R171). -/
inductive Turn where
  | byte
  | command
  | reset
  deriving DecidableEq, Repr

/-- The whole machine. -/
@[ext]
structure State where
  /-- The configuration (R5). No step writes it. -/
  cfg : Config
  /-- `fwe_valid` (R12). -/
  fweValid : Bool
  /-- `cur_addr` (R13). -/
  curAddr : Word
  /-- `offset` (R14), in `0 .. PAGE_SIZE` (notes/assumptions/19.md). -/
  offset : Nat
  /-- `mirror` (R15), `PAGE_SIZE` bytes. -/
  mirror : List Byte
  /-- `fwe_fault` (R16). -/
  fweFault : Bool
  /-- `fwe_cause` (R17). -/
  fweCause : FaultCause
  /-- `xstate` (R19). -/
  xstate : XState
  /-- `xstatus` (R20). -/
  xstatus : XStatus
  /-- `blk` (R21). -/
  blk : Byte
  /-- `blk_inv` (R22). -/
  blkInv : Byte
  /-- `expected_blk` (R23). -/
  expectedBlk : Byte
  /-- `plen_sel` (R24): false is 0 (128 bytes), true is 1 (1024 bytes). -/
  plenSel : Bool
  /-- `pcount` (R25). -/
  pcount : BitVec 11
  /-- `pbuf` (R26), 1024 bytes. -/
  pbuf : List Byte
  /-- `crc_rx` (R27). -/
  crcRx : Half
  /-- `crc_calc` (R28). -/
  crcCalc : Half
  /-- The storage contents (R41). -/
  storage : Memory
  /-- `locked` (R44). -/
  locked : Bool
  /-- The transmit log (R51), oldest byte first. -/
  tx : List Byte
  /-- The diagnostic log (R151), oldest entry first. -/
  diag : List Diag
  /-- The responses of the host commands (R74), oldest first. The model's own field (notes/assumptions/7.md). -/
  resp : List Response
  /-- The bytes the receive port will present, the waiting one first (R52, R141). The model's own field: an input
  (notes/assumptions/7.md). -/
  rxPort : List Byte
  /-- The commands the host will issue, the next one first (R142). The model's own field: an input
  (notes/assumptions/7.md). -/
  hostPort : List Command
  /-- What goes first at the coming steps (R143). The model's own field: an input (notes/assumptions/9.md). -/
  sched : List Turn
  /-- The coming draws of the storage oracle (R49). The model's own field: an input (notes/assumptions/4.md). -/
  script : List ScriptEntry
  /-- The oracle after its script. The model's own field: an input (notes/assumptions/4.md). -/
  tail : OracleTail
  /-- The number of draws made; free values are applied to it. The model's own field (notes/assumptions/4.md and
  18.md). -/
  drawCount : Nat
  /-- How many more bytes the transmit port takes before it never becomes ready again (R50, I15); none: it always
  becomes ready. The model's own field: an input (notes/assumptions/15.md). -/
  txLimit : Option Nat
  /-- How many more bulk reads the storage port serves before it never becomes ready for one again (R45, R50); none: it
  always becomes ready. The model's own field: an input (notes/assumptions/15.md). -/
  readLimit : Option Nat
  deriving DecidableEq, Repr

/-- Why the machine stops. -/
inductive Fault where
  /-- A storage or transmit port never becomes ready, so the step never ends and the agent is stuck (R50, R176, I15).
  Raised by `draw`, `takeRead` and `send` where the inputs say so. Safe: the machine makes no further progress. -/
  | portNeverReady
  /-- Stage called with its precondition false (R95, I13: a modelling fault). Raised by `stage`. Safe: no state that
  meets `Inv` raises it. -/
  | stagePrecondition
  /-- FlushProc called with its precondition `fwe_valid = 1` false (R97), which would read a mirror that holds no value
  (R37, I11). Raised by `flushProc`. Safe: no state that meets `Inv` raises it. -/
  | flushPrecondition
  /-- An RXB event with a reserved state code (R72, I12). Raised by `step`; `XState` has no such code, so no state
  raises it. Safe. -/
  | reservedXState
  deriving DecidableEq, Repr

/-- Why the machine has no meaning for what it is given. -/
inductive Refusal where
  /-- An instruction that has no meaning yet. Raised by no arm of `exec`. Safe. -/
  | notModelled (mnemonic : String)
  /-- No byte waits and no command waits: no step is ready (R152). Raised by `step`. Safe: nothing happens. -/
  | noStepReady
  /-- A host command record whose `D` does not hold exactly `L` bytes, which is no host command (R73). Raised by `step`.
  Safe. -/
  | malformedCommand
  /-- A parameter record that breaks R6: the model refuses to build a block from it (R133, D33). Raised by `step`. Safe. -/
  | invalidConfiguration
  deriving DecidableEq, Repr

/-- Power-on reset (R39, R154) of a block of configuration `c` over the given storage contents, which reset leaves as they
were (R40). `mirror` and `pbuf` have no value there (R37); the model names 0x00 for each byte (DESIGN CHOICE,
notes/assumptions/1.md). The logs start empty (R40), the port is locked (R44), and the inputs say nothing: no byte and no
command waits, and every draw is free. -/
def State.powerOn (c : Config) (storage : Memory) : State where
  cfg := c
  fweValid := false
  curAddr := 0
  offset := 0
  mirror := List.replicate c.pageSize 0
  fweFault := false
  fweCause := .none
  xstate := .waitStart
  xstatus := .idle
  blk := 0
  blkInv := 0
  expectedBlk := 1
  plenSel := false
  pcount := 0
  pbuf := List.replicate 1024 0
  crcRx := 0
  crcCalc := 0
  storage := storage
  locked := true
  tx := []
  diag := []
  resp := []
  rxPort := []
  hostPort := []
  sched := []
  script := []
  tail := .free
  drawCount := 0
  txLimit := none
  readLimit := none

/-- The machine right after reset: the example configuration of R5 (notes/assumptions/2.md), nothing listed in storage
(notes/assumptions/3.md). -/
def State.reset : State := State.powerOn Config.exampleColumn []

end Sys2Proof.Machine
end

