-- ==== Sys2Proof/Machine/Layout.lean ====
section
/-! DEFINITION. What follows from a configuration: the constraints that make it valid (00_scope.md R6), the slot layout
(R7, 20_memory.md R62), the storage range (R42), and the fixed size of the payload buffer (R5, R26). -/

namespace Sys2Proof.Machine

/-- `MAX_PAYLOAD` (R5). -/
def maxPayload : Nat := 1024

/-- `SLOT_CAPACITY` (R7). Where `UPDATE_SIZE < PAGE_SIZE` the difference is 0 here, so constraint 7 of R6 fails as it
does of the negative number. -/
def slotCapacity (c : Config) : Nat := (c.updateSize - c.pageSize) / 2 / c.pageSize * c.pageSize

/-- `SLOT_A` (R7). -/
def slotA (c : Config) : Nat := c.updateBase + c.pageSize

/-- `SLOT_B` (R7). -/
def slotB (c : Config) : Nat := slotA c + slotCapacity c

/-- `InStorage(a, n)` (R42), over unbounded naturals. -/
abbrev InStorage (c : Config) (a n : Nat) : Prop :=
  c.storageBase ≤ a ∧ a + n ≤ c.storageBase + c.storageSize

/-- `PortErase`'s range check (R47): the page lies inside storage, and ends below 2^32, since the erase of a page whose flush
would carry `cur_addr` to 2^32 is out of range (R42; DEDUCED, notes/assumptions/5.md). -/
abbrev Erasable (c : Config) (p : Nat) : Prop := InStorage c p c.pageSize ∧ p + c.pageSize < 2 ^ 32

/-- The fields of the header record lie inside the header. DEDUCED (notes/assumptions/10.md): R77 reads each field from
the `HDR_SIZE` bytes of the header. Fields may overlap one another (DESIGN CHOICE, notes/assumptions/23.md): R78 does not
say, and R90 then holds of the records whose version and reserved bytes no other field shares. They may also stand in any
order, though the source gives one (R77, R78; DESIGN CHOICE, notes/assumptions/24.md), and `HDR_SIZE` and the widths may be
any numbers (DESIGN CHOICE, notes/assumptions/25.md). -/
abbrev headerFits (h : HeaderLayout) : Prop :=
  h.magicOffset + h.magicWidth ≤ h.hdrSize ∧ h.sizeOffset + h.sizeWidth ≤ h.hdrSize ∧
  h.versionOffset + h.versionWidth ≤ h.hdrSize ∧ h.checksumOffset + 2 ≤ h.hdrSize ∧
  h.reservedOffset + h.reservedWidth ≤ h.hdrSize

/-- A valid configuration: the seven constraints of R6 in its order, then the values R5 allows `PROG_UNIT`, then the
header record, whose magic may be any number (DESIGN CHOICE, notes/assumptions/22.md) and whose fields may overlap and
stand in any order (DESIGN CHOICE, notes/assumptions/23.md, 24.md). -/
abbrev configValid (c : Config) : Prop :=
  1024 ≤ c.pageSize ∧
  c.pageSize % c.progUnit = 0 ∧
  (c.storageBase % c.pageSize = 0 ∧ c.storageSize % c.pageSize = 0) ∧
  (0 < c.storageSize ∧ c.storageBase + c.storageSize ≤ 2 ^ 32) ∧
  (c.updateBase % c.pageSize = 0 ∧ c.updateSize % c.pageSize = 0) ∧
  (c.storageBase ≤ c.updateBase ∧ c.updateBase + c.updateSize ≤ c.storageBase + c.storageSize) ∧
  c.pageSize ≤ slotCapacity c ∧
  (c.progUnit = 1 ∨ c.progUnit = 2 ∨ c.progUnit = 4 ∨ c.progUnit = 8) ∧
  headerFits c.header

end Sys2Proof.Machine
end

