-- ==== Sys2Proof/Machine/Memory.lean ====
section
/-! DEFINITION. Storage contents as a list in one canonical form, and the primitives that read and write them
(20_memory.md R41, R45). `d` is the byte that an unlisted address reads as, `ERASED_BYTE` of the configuration
(notes/assumptions/3.md). -/

namespace Sys2Proof.Machine

/-- The byte at address `a`. -/
def Memory.read (d : Byte) : Memory → Nat → Byte
  | [], _ => d
  | (k, v) :: m, a => if k = a then v else Memory.read d m a

/-- The contents with byte `v` at address `a`. The canonical form is kept: an entry that equals what an unlisted
address reads as is not listed. -/
def Memory.write (d : Byte) : Memory → Nat → Byte → Memory
  | [], a, v => if v = d then [] else [(a, v)]
  | (k, w) :: m, a, v =>
    if a < k then if v = d then (k, w) :: m else (a, v) :: (k, w) :: m
    else if a = k then if v = d then m else (a, v) :: m
    else (k, w) :: Memory.write d m a v

/-- The canonical form: addresses strictly rising, no entry equal to what an unlisted address reads as. -/
def Memory.wf (d : Byte) : Memory → Bool
  | [] => true
  | (k, v) :: m => v != d && m.all (fun c => k < c.1) && Memory.wf d m

/-- The `n` bytes from address `a`, in ascending address order (R45, R53 (b)). -/
def Memory.readBytes (d : Byte) (m : Memory) (a n : Nat) : List Byte :=
  (List.range n).map fun i => Memory.read d m (a + i)

/-- The contents with the bytes of `bs` from address `a` up (R53 (b)). -/
def Memory.writeBytes (d : Byte) : Memory → Nat → List Byte → Memory
  | m, _, [] => m
  | m, a, b :: bs => Memory.writeBytes d (Memory.write d m a b) (a + 1) bs

/-- The storage byte at address `a`. -/
def storageByte (s : State) (a : Nat) : Byte := Memory.read s.cfg.erasedByte s.storage a

/-- The `n` storage bytes from address `a` (R45, inside storage). -/
def storageBytes (s : State) (a n : Nat) : List Byte := Memory.readBytes s.cfg.erasedByte s.storage a n

/-- The state with the storage bytes from address `a` replaced by `bs`. -/
def writeStorage (a : Nat) (bs : List Byte) (s : State) : State :=
  { s with storage := Memory.writeBytes s.cfg.erasedByte s.storage a bs }

end Sys2Proof.Machine
end

