-- ==== Sys2Proof/Machine/Operands.lean ====
section
/-! DEFINITION. What an instruction reads: the payload of the current packet (10_state.md R24, R26), the register map
view of RDREG (R36), the numeric codes behind it (R20, R134, R136), and the header fields VER reads (30_encoding.md
R77, R78). -/

namespace Sys2Proof.Machine

/-- `plen` (R24). -/
def plen (s : State) : Nat := if s.plenSel then 1024 else 128

/-- `pbuf[0..plen)` (R26). -/
def payload (s : State) : List Byte := s.pbuf.take (plen s)

/-- The codes of R20. -/
def statusCode : XStatus → BitVec 2
  | .idle => 0
  | .inProgress => 1
  | .finished => 2
  | .interrupted => 3

/-- The codes of R136. -/
def causeCode : FaultCause → BitVec 3
  | .none => 0
  | .unlock => 1
  | .erase => 2
  | .program => 3
  | .verify => 4
  | .lock => 5
  | .notInit => 6

/-- The codes of R134. -/
def respCode : RespCode → Byte
  | .ok => 0x00
  | .badCmd => 0x01
  | .busy => 0x02
  | .notInit => 0x03
  | .misaligned => 0x04
  | .range => 0x05
  | .overflow => 0x06
  | .flushFail => 0x07
  | .badReg => 0x08

/-- The 32-bit view of register `n` that RDREG assembles (R36), most significant field first; none for an unassigned
number. -/
def registerView (s : State) (n : Byte) : Option Word :=
  match n.toNat with
  | 0 => some (0#23 ++ BitVec.ofBool s.plenSel ++ 0#2 ++ statusCode s.xstatus ++ 0#1 ++ s.xstate.code : BitVec 32)
  | 1 => some (0#8 ++ s.expectedBlk ++ s.blkInv ++ s.blk : BitVec 32)
  | 2 => some (0#21 ++ s.pcount : BitVec 32)
  | 3 => some (s.crcCalc ++ s.crcRx : BitVec 32)
  | 4 => some s.curAddr
  | 5 => some (BitVec.ofNat 32 s.offset)
  | 6 => some (0#25 ++ causeCode s.fweCause ++ 0#2 ++ BitVec.ofBool s.fweFault ++ BitVec.ofBool s.fweValid : BitVec 32)
  | _ => none

/-- A field of `width` bytes at `off` of a byte sequence, in the record's byte order (R77, R78). -/
def headerField (o : ByteOrder) (off width : Nat) (h : List Byte) : Nat :=
  let bytes := (h.drop off).take width
  match o with
  | .little => leNat bytes
  | .big => leNat bytes.reverse

/-- The header's `magic` field (R77). -/
def headerMagic (l : HeaderLayout) (h : List Byte) : Nat := headerField l.order l.magicOffset l.magicWidth h

/-- The header's `size` field (R77). -/
def headerSize (l : HeaderLayout) (h : List Byte) : Nat := headerField l.order l.sizeOffset l.sizeWidth h

/-- The header's `checksum` field, 16 bits (R77). -/
def headerChecksum (l : HeaderLayout) (h : List Byte) : Half :=
  BitVec.ofNat 16 (headerField l.order l.checksumOffset 2 h)

end Sys2Proof.Machine
end

