-- ==== Sys2Proof/Machine/Flags.lean ====
section
/-! DEFINITION. The block's flags (10_state.md R32: `xstatus`, `fwe_fault`, `fwe_valid`) and the rules that compute
them: the BUSY check (R38), the status after an EOT (43_transfer_protocol.md R112), the storage fault flag and cause
(R16, R17). -/

namespace Sys2Proof.Machine

/-- The BUSY check of the commands that write FWE or XFR state (R38, R135). -/
def busy (s : State) : Bool := s.xstatus = .inProgress

/-- `xstatus` after an EOT whose flush returned `r` (R112, R146). -/
def statusAfterEot (c : Config) (r : PortResult) : XStatus :=
  match r, c.eotFlushFail with
  | .ok, _ => .finished
  | .fail, .finished => .finished
  | .fail, .interrupted => .interrupted

/-- `fwe_fault <- 1; fwe_cause <- cause`, written together (R16, R17). -/
def setFault (cause : FaultCause) (s : State) : State := { s with fweFault := true, fweCause := cause }

/-- `fwe_fault <- 0; fwe_cause <- FC_NONE`: FWE_INIT only (R16, R93). -/
def clearFault (s : State) : State := { s with fweFault := false, fweCause := .none }

end Sys2Proof.Machine
end

