-- ==== Sys2Proof/Machine/Ops.lean ====
section
/-! DEFINITION. The operations that the meanings share: the ports (20_memory.md R45 to R51), the host's response
(30_encoding.md R74), the diagnostic log and fault entry (60_exceptions.md R144, R151), and the internal procedures
HandleReset (R120), Stage (R95) and FlushProc (R97).

An operation that may find a port that never becomes ready answers in `Except Fault` (R50). -/

namespace Sys2Proof.Machine

/-! ### Wire bytes (R66) -/

/-- ACK. -/
def ack : Byte := 0x06

/-- NAK. -/
def nak : Byte := 0x15

/-- The probe `'C'`. -/
def probe : Byte := 0x43

/-! ### Outputs -/

/-- `Send(b)` (R51): appends to the transmit log, and cannot fail; a port that never becomes ready is stuck (R50, I15). -/
def send (b : Byte) (s : State) : Except Fault State :=
  match s.txLimit with
  | none => .ok { s with tx := s.tx ++ [b] }
  | some 0 => .error .portNeverReady
  | some (n + 1) => .ok { s with tx := s.tx ++ [b], txLimit := some n }

/-- `Diag(kind, args...)` (R151). -/
def logDiag (d : Diag) (s : State) : State := { s with diag := s.diag ++ [d] }

/-- `respond(code, value)` (R74). -/
def respond (code : RespCode) (value : Word) (s : State) : State := { s with resp := s.resp ++ [⟨code, value⟩] }

/-- A command that is refused: nothing changes and the value is 0 (R134). -/
def refuseCommand (code : RespCode) (s : State) : State := respond code 0 s

/-- How a meaning ends: its state, or the stuck port. -/
def finish (r : Except Fault State) : Host.Outcome State Fault Refusal :=
  match r with
  | .ok s => .next s
  | .error f => .fault f

/-! ### Fault entry (R144) -/

/-- A storage fault: the flag and the cause are set together and the fault is logged (R104, R137, R140, R144). Nothing
else is saved and nothing is rolled back. -/
def storageFault (cause : FaultCause) (s : State) : State := logDiag (.storageFault cause) (setFault cause s)

/-- A protocol fault: NAK, the log entry, and back to `WaitStart` (R138, R144). `expected_blk`, FWE and `xstatus` are
unchanged. There is no return from a fault: the next byte is decoded in `WaitStart` (R145). -/
def protocolFault (d : Diag) (s : State) : Except Fault State := do
  let s ← send nak s
  .ok { logDiag d s with xstate := .waitStart }

/-! ### The storage oracle (R49) -/

/-- One draw of the oracle: the next entry of its script, and after the script a free or a fault-free draw. -/
def draw (s : State) : Except Fault (Draw × State) :=
  match s.script with
  | .never :: _ => .error .portNeverReady
  | .draw d :: rest => .ok (d, { s with script := rest, drawCount := s.drawCount + 1 })
  | [] =>
    match s.tail with
    | .faultFree => .ok (⟨.ok, [], []⟩, { s with drawCount := s.drawCount + 1 })
    | .free =>
      .ok (⟨Config.freeResult s.drawCount, [], Config.freeMisWrite s.drawCount⟩,
        { s with drawCount := s.drawCount + 1 })

/-- The `n` "any byte" values of draw number `k`: the draw's own, and free where it lists none. -/
def drawnBytes (d : Draw) (k n : Nat) : List Byte :=
  (List.range n).map fun i => (d.anyBytes[i]?).getD (Config.freeByte k i)

/-! ### The storage port (R45 to R48) -/

/-- The port serves one more bulk read, or never becomes ready for it (R50). -/
def takeRead (s : State) : Except Fault State :=
  match s.readLimit with
  | none => .ok s
  | some 0 => .error .portNeverReady
  | some (n + 1) => .ok { s with readLimit := some n }

/-- `PortUnlock()` (R46). -/
def portUnlock (s : State) : Except Fault (PortResult × State) := do
  let (d, s) ← draw s
  match d.result with
  | .ok => .ok (.ok, { s with locked := false })
  | .fail => .ok (.fail, s)

/-- `PortLock()` (R46): the port is locked on either outcome. -/
def portLock (s : State) : Except Fault (PortResult × State) := do
  let (d, s) ← draw s
  .ok (d.result, { s with locked := true })

/-- `PortErase(p)` (R47). -/
def portErase (p : Nat) (s : State) : Except Fault (PortResult × State) :=
  if s.locked = true ∨ p % s.cfg.pageSize ≠ 0 ∨ ¬ Erasable s.cfg p then .ok (.fail, s)
  else do
    let k := s.drawCount
    let (d, s) ← draw s
    match d.result with
    | .ok => .ok (.ok, writeStorage p (List.replicate s.cfg.pageSize s.cfg.erasedByte) s)
    | .fail => .ok (.fail, writeStorage p (drawnBytes d k s.cfg.pageSize) s)

/-- The byte that a successful program operation leaves at a place that held `old`, where `want` was asked (R48). -/
def programmedByte (p : ProgramSemantics) (old want : Byte) : Byte :=
  match p with
  | .overwrite => want
  | .andBits => old &&& want

/-- The bytes that a successful program operation leaves (R48): each byte as `PROGRAM_SEMANTICS` says, but for the silent
error's. -/
def programmedBytes (p : ProgramSemantics) (old want : List Byte) (mis : List (Option Byte)) : List Byte :=
  (List.zipWith (programmedByte p) old want).mapIdx fun i b => ((mis[i]?).getD none).getD b

/-- `PortProgram(a, d)` (R48). -/
def portProgram (a : Nat) (data : List Byte) (s : State) : Except Fault (PortResult × State) :=
  if s.locked = true ∨ a % s.cfg.progUnit ≠ 0 ∨ ¬ InStorage s.cfg a s.cfg.progUnit then .ok (.fail, s)
  else do
    let k := s.drawCount
    let (d, s) ← draw s
    match d.result with
    | .ok =>
      .ok (.ok, writeStorage a
        (programmedBytes s.cfg.programSemantics (storageBytes s a s.cfg.progUnit) data d.misWrite) s)
    | .fail => .ok (.fail, writeStorage a (drawnBytes d k s.cfg.progUnit) s)

/-- `MemRead(a, n)` (R45): the storage bytes inside storage, any bytes outside. -/
def memRead (a n : Nat) (s : State) : Except Fault (List Byte × State) := do
  let s ← takeRead s
  if InStorage s.cfg a n then .ok (storageBytes s a n, s)
  else do
    let k := s.drawCount
    let (d, s) ← draw s
    .ok (drawnBytes d k n, s)

/-! ### Internal procedures -/

/-- HandleReset (R120): `xstatus`, `pbuf` and all FWE state are unchanged. -/
def handleReset (s : State) : State :=
  { s with
    xstate := .waitStart
    blk := 0
    blkInv := 0
    expectedBlk := 1
    plenSel := false
    pcount := 0
    crcRx := 0
    crcCalc := 0 }

/-- Stage (R95). Its precondition is the caller's duty; a call without it is a modelling fault. -/
def stage (d : List Byte) (s : State) : Except Fault State :=
  if s.fweValid = true ∧ s.offset + d.length ≤ s.cfg.pageSize then
    .ok { s with
      mirror := s.mirror.take s.offset ++ d ++ s.mirror.drop (s.offset + d.length)
      offset := s.offset + d.length }
  else .error .stagePrecondition

/-- The program step (R100): `n` units in ascending address order from `a`, their bytes the first of `data`; the first
`Fail` stops it. -/
def programUnits : Nat → Nat → List Byte → State → Except Fault (PortResult × State)
  | 0, _, _, s => .ok (.ok, s)
  | n + 1, a, data, s => do
    let (r, s) ← portProgram a (data.take s.cfg.progUnit) s
    match r with
    | .fail => .ok (.fail, s)
    | .ok => programUnits n (a + s.cfg.progUnit) (data.drop s.cfg.progUnit) s

/-- The verify step (R101): read the page back and compare it with the mirror. -/
def verifyPage (s : State) : Except Fault (FaultCause × State) := do
  let (back, s) ← memRead s.curAddr.toNat s.cfg.pageSize s
  .ok (if back = s.mirror then .none else .verify, s)

/-- FlushProc up to its lock step: unlock (R98), erase (R99), program (R100), verify (R101), and the cause they
record. -/
def flushPage (s : State) : Except Fault (FaultCause × State) := do
  let (u, s) ← portUnlock s
  match u with
  | .fail => .ok (.unlock, s)
  | .ok => do
    let (e, s) ← portErase s.curAddr.toNat s
    match e with
    | .fail => .ok (.erase, s)
    | .ok => do
      let (p, s) ← programUnits (s.cfg.pageSize / s.cfg.progUnit) s.curAddr.toNat s.mirror s
      match p with
      | .fail => .ok (.program, s)
      | .ok => verifyPage s

/-- The cause after the lock step (R102): an earlier cause is kept. -/
def lockCause (cause : FaultCause) (lock : PortResult) : FaultCause :=
  match cause, lock with
  | .none, .fail => .lock
  | c, _ => c

/-- `cur_addr + PAGE_SIZE` (R103). It fits `cur_addr` after every flush that succeeds: the page was `Erasable` (R42). -/
def nextPage (s : State) : Word := BitVec.ofNat 32 (s.curAddr.toNat + s.cfg.pageSize)

/-- Loads the mirror from the page at `cur_addr` (R93, R103). -/
def loadMirror (s : State) : Except Fault State := do
  let (bytes, s) ← memRead s.curAddr.toNat s.cfg.pageSize s
  .ok { s with mirror := bytes }

/-- Commit on success (R103). -/
def commitFlush (s : State) : Except Fault State :=
  let s := { s with offset := 0, curAddr := nextPage s }
  match s.cfg.mirrorAfterFlush with
  | .reload => loadMirror s
  | .keep => .ok s

/-- FlushProc (R97): the page, then the lock on every path (R102), then the failure (R104) or the commit (R103). -/
def flushProc (s : State) : Except Fault (PortResult × State) :=
  if s.fweValid = true then do
    let (c, s) ← flushPage s
    let (l, s) ← portLock s
    match lockCause c l with
    | .none => do
      let s ← commitFlush s
      .ok (.ok, s)
    | cause => .ok (.fail, storageFault cause s)
  else .error .flushPrecondition

/-! ### Reset -/

/-- Power-on reset of a block that runs (R39, R40, R154, R155): the registers and the logs start afresh, the port is
locked; storage keeps its contents, and what the outside will do is unchanged. -/
def powerCycle (s : State) : State :=
  { State.powerOn s.cfg s.storage with
    rxPort := s.rxPort
    hostPort := s.hostPort
    sched := s.sched
    script := s.script
    tail := s.tail
    drawCount := s.drawCount
    txLimit := s.txLimit
    readLimit := s.readLimit }

end Sys2Proof.Machine
end

