-- ==== Sys2Proof/Machine/Fwe.lean ====
section
/-! DEFINITION. The meanings of the FWE instructions (42_flash_write_engine.md R93, R96, R105), their checks in the order of
60_exceptions.md R135. -/

namespace Sys2Proof.Machine

/-- FWE_INIT (R93). -/
def execFweInit (a : Word) (s : State) : Host.Outcome State Fault Refusal :=
  if busy s then .next (refuseCommand .busy s)
  else if a.toNat % s.cfg.pageSize ≠ 0 then .next (refuseCommand .misaligned s)
  else if ¬ InStorage s.cfg a.toNat s.cfg.pageSize then .next (refuseCommand .range s)
  else
    finish do
      let s ← loadMirror { s with curAddr := a, offset := 0 }
      .ok (respond .ok 0 (clearFault { s with fweValid := true }))

/-- FWE_STAGE (R96). -/
def execFweStage (l : Half) (d : List Byte) (s : State) : Host.Outcome State Fault Refusal :=
  if busy s then .next (refuseCommand .busy s)
  else if s.fweValid = false then .next (refuseCommand .notInit s)
  else if s.cfg.pageSize < s.offset + l.toNat then .next (refuseCommand .overflow s)
  else
    finish do
      let s ← stage d s
      .ok (respond .ok (BitVec.ofNat 32 s.offset) s)

/-- FWE_FLUSH (R105): it flushes whatever `offset` is. -/
def execFweFlush (s : State) : Host.Outcome State Fault Refusal :=
  if busy s then .next (refuseCommand .busy s)
  else if s.fweValid = false then .next (refuseCommand .notInit s)
  else
    finish do
      let (r, s) ← flushProc s
      match r with
      | .ok => .ok (respond .ok s.curAddr s)
      | .fail => .ok (respond .flushFail ((causeCode s.fweCause).setWidth 32) s)

end Sys2Proof.Machine
end

