-- ==== Sys2Proof/Machine/Ver.lean ====
section
/-! DEFINITION. The meaning of VER_VERIFY (41_image_verifier.md R86 to R92). -/

namespace Sys2Proof.Machine

/-- The checks of R86 on the header bytes `h` of the image at `a`, in its order, up to the body's read: the magic, the size
and the body's range. -/
abbrev headerAccepted (c : Config) (a : Nat) (h : List Byte) : Prop :=
  headerMagic c.header h = c.header.magic ∧
  headerSize c.header h ≠ 0 ∧ headerSize c.header h ≤ slotCapacity c ∧
  InStorage c (a + c.header.hdrSize) (headerSize c.header h)

/-- Whether the image at `a` verifies (R86). A failed check reads nothing further (R87), and the version and the reserved
bytes decide nothing (R90). -/
def verifies (a : Nat) (s : State) : Except Fault (Bool × State) :=
  let l := s.cfg.header
  if InStorage s.cfg a l.hdrSize then do
    let (h, s) ← memRead a l.hdrSize s
    if headerAccepted s.cfg a h then do
      let (body, s) ← memRead (a + l.hdrSize) (headerSize l h) s
      .ok (decide (crc16 body = headerChecksum l h), s)
    else .ok (false, s)
  else .ok (false, s)

/-- VER_VERIFY (R86): it is accepted at any time and writes no register (R89). -/
def execVerVerify (a : Word) (s : State) : Host.Outcome State Fault Refusal :=
  finish do
    let (v, s) ← verifies a.toNat s
    .ok (respond .ok (if v then 1 else 0) s)

end Sys2Proof.Machine
end

