-- ==== Sys2Proof/Machine/Xfr.lean ====
section
/-! DEFINITION. The meanings of the XFR instructions: the ten byte rules (43_transfer_protocol.md R110 to R119) and the
host commands XFR_START, XFR_PROBE and RDREG (R129 to R131). -/

namespace Sys2Proof.Machine

/-! ### Byte rules in `WaitStart` -/

/-- The start of a packet of the length `sel` selects (R110, R111). -/
def startPacket (sel : Bool) (s : State) : State :=
  { s with plenSel := sel, xstate := .waitBlockNum, xstatus := .inProgress }

/-- XFR_SOH (R110). -/
def execXfrSoh (s : State) : Host.Outcome State Fault Refusal := .next (startPacket false s)

/-- XFR_STX (R111). -/
def execXfrStx (s : State) : Host.Outcome State Fault Refusal := .next (startPacket true s)

/-- The flush of an EOT: only where something is staged (R112). -/
def eotFlush (s : State) : Except Fault (PortResult × State) :=
  if 0 < s.offset then flushProc s else .ok (.ok, s)

/-- XFR_EOT (R112): the ACK goes out before the flush and is not withdrawn (R146). -/
def execXfrEot (s : State) : Host.Outcome State Fault Refusal :=
  finish do
    let s ← send ack s
    let (r, s) ← eotFlush s
    .ok { handleReset s with xstatus := statusAfterEot s.cfg r }

/-- XFR_CAN (R113). -/
def execXfrCan (s : State) : Host.Outcome State Fault Refusal :=
  .next { handleReset s with xstatus := .interrupted }

/-- XFR_NOISE (R114). -/
def execXfrNoise (b : Byte) (s : State) : Host.Outcome State Fault Refusal := .next (logDiag (.noise b) s)

/-! ### Byte rules of the packet body -/

/-- XFR_BLKNUM (R115). -/
def execXfrBlknum (b : Byte) (s : State) : Host.Outcome State Fault Refusal :=
  .next { s with blk := b, xstate := .waitBlockInv }

/-- XFR_BLKINV (R116). -/
def execXfrBlkinv (b : Byte) (s : State) : Host.Outcome State Fault Refusal :=
  if s.blk + b = 0xFF then .next { s with blkInv := b, pcount := 0, xstate := .waitData }
  else finish (protocolFault (.badComplement s.blk b) { s with blkInv := b })

/-- XFR_DATA (R117). -/
def execXfrData (b : Byte) (s : State) : Host.Outcome State Fault Refusal :=
  .next { s with
    pbuf := s.pbuf.set s.pcount.toNat b
    pcount := s.pcount + 1
    xstate := if (s.pcount + 1).toNat = plen s then .waitCrcHigh else s.xstate }

/-- XFR_CRCHI (R118). -/
def execXfrCrchi (b : Byte) (s : State) : Host.Outcome State Fault Refusal :=
  .next { s with crcRx := (b ++ s.crcRx.extractLsb' 0 8 : BitVec 16), xstate := .waitCrcLow }

/-- The room check (R119, R121): a flush where the payload does not fit in the rest of the page. -/
def roomCheck (s : State) : Except Fault (PortResult × State) :=
  if s.cfg.pageSize - s.offset < plen s then flushProc s else .ok (.ok, s)

/-- The accept path of XFR_CRCLO (R119): a packet with a right checksum and the expected number. Without FWE_INIT it is a
storage fault (R140); a failed room-check flush sends nothing and leaves `expected_blk` (R137). -/
def acceptPacket (s : State) : Except Fault State :=
  if s.fweValid = true then do
    let (r, s) ← roomCheck s
    match r with
    | .fail => .ok s
    | .ok => do
      let s ← stage (payload s) s
      send ack { s with expectedBlk := s.expectedBlk + 1 }
  else .ok (storageFault .notInit s)

/-- XFR_CRCLO (R119). -/
def execXfrCrclo (b : Byte) (s : State) : Host.Outcome State Fault Refusal :=
  let s : State :=
    { s with
      crcRx := (s.crcRx.extractLsb' 8 8 ++ b : BitVec 16)
      crcCalc := crc16 (payload s)
      xstate := .waitStart }
  finish <|
    if s.crcCalc ≠ s.crcRx then protocolFault (.badCrc s.crcRx s.crcCalc) s
    else if s.blk = s.expectedBlk then acceptPacket s
    else if s.blk = s.expectedBlk - 1 then send ack s
    else protocolFault (.badSequence s.blk s.expectedBlk) s

/-! ### Host commands -/

/-- XFR_START (R129). -/
def execXfrStart (s : State) : Host.Outcome State Fault Refusal :=
  if busy s then .next (refuseCommand .busy s)
  else .next (respond .ok 0 { handleReset s with xstatus := .idle })

/-- XFR_PROBE (R130). -/
def execXfrProbe (s : State) : Host.Outcome State Fault Refusal :=
  if s.xstatus = .idle then
    finish do
      let s ← send probe s
      .ok (respond .ok 1 s)
  else .next (respond .ok 0 s)

/-- RDREG (R131). -/
def execRdreg (n : Byte) (s : State) : Host.Outcome State Fault Refusal :=
  match registerView s n with
  | some v => .next (respond .ok v s)
  | none => .next (refuseCommand .badReg s)

end Sys2Proof.Machine
end

