-- ==== Sys2Proof/Machine/Dispatch.lean ====
section
/-! DEFINITION. One arm per row of spec/opcode_table.json. -/

namespace Sys2Proof.Machine

def exec (i : Instr) (s : State) : Host.Outcome State Fault Refusal :=
  match i with
  | .xfrSoh => Sys2Proof.Machine.execXfrSoh s
  | .xfrStx => Sys2Proof.Machine.execXfrStx s
  | .xfrEot => Sys2Proof.Machine.execXfrEot s
  | .xfrCan => Sys2Proof.Machine.execXfrCan s
  | .xfrNoise b => Sys2Proof.Machine.execXfrNoise b s
  | .xfrBlknum b => Sys2Proof.Machine.execXfrBlknum b s
  | .xfrBlkinv b => Sys2Proof.Machine.execXfrBlkinv b s
  | .xfrData b => Sys2Proof.Machine.execXfrData b s
  | .xfrCrchi b => Sys2Proof.Machine.execXfrCrchi b s
  | .xfrCrclo b => Sys2Proof.Machine.execXfrCrclo b s
  | .xfrStart => Sys2Proof.Machine.execXfrStart s
  | .xfrProbe => Sys2Proof.Machine.execXfrProbe s
  | .rdreg n => Sys2Proof.Machine.execRdreg n s
  | .fweInit a => Sys2Proof.Machine.execFweInit a s
  | .fweStage l d => Sys2Proof.Machine.execFweStage l d s
  | .fweFlush => Sys2Proof.Machine.execFweFlush s
  | .verVerify a => Sys2Proof.Machine.execVerVerify a s

end Sys2Proof.Machine
end

