-- ==== Sys2Proof/Machine/Fetch.lean ====
section
/-! DEFINITION. Which agent takes the next step, and the instruction it runs (43_transfer_protocol.md R109; 60_exceptions.md
R141 to R143, R150). -/

namespace Sys2Proof.Machine

/-- What the next step finds. Each state is the one the step runs in: its event is consumed. -/
inductive Fetched where
  /-- No byte and no command waits (R152). -/
  | idle
  /-- A power-on reset (R154, R171). -/
  | reset (s : State)
  /-- An instruction. -/
  | run (i : Instr) (s : State)
  /-- A command with an illegal opcode (R76). -/
  | illegal (s : State)
  /-- A command record that is no command (R73). -/
  | malformed
  /-- A reserved RXB event (R72). -/
  | reserved
  deriving Repr

/-- The RX agent's step (R109): it takes the byte that waits and decodes `{xstate, B}`. -/
def fetchByte (s : State) : Fetched :=
  match s.rxPort with
  | [] => .idle
  | b :: rest =>
    match decodeEvent (rxEvent s.xstate.code b) with
    | .ok i => .run i { s with rxPort := rest }
    | .error _ => .reserved

/-- The host's step (R142): it takes the command that waits and decodes it. -/
def fetchCommand (s : State) : Fetched :=
  match s.hostPort with
  | [] => .idle
  | c :: rest =>
    match decodeCommand c with
    | .ok i => .run i { s with hostPort := rest }
    | .error (.illegalOpcode _) => .illegal { s with hostPort := rest }
    | .error _ => .malformed

/-- The agent that `byteFirst` favours, or the other one where only it is ready (R143). -/
def fetchFavoured (byteFirst : Bool) (s : State) : Fetched :=
  if byteFirst then
    match s.rxPort with
    | _ :: _ => fetchByte s
    | [] => fetchCommand s
  else
    match s.hostPort with
    | _ :: _ => fetchCommand s
    | [] => fetchByte s

/-- The next event (R143): the schedule's next entry says which agent goes first, or that the block is reset; after the
schedule the choice is free. -/
def fetch (s : State) : Fetched :=
  match s.sched with
  | .reset :: rest => .reset { s with sched := rest }
  | .byte :: rest => fetchFavoured true { s with sched := rest }
  | .command :: rest => fetchFavoured false { s with sched := rest }
  | [] =>
    match s.rxPort, s.hostPort with
    | _ :: _, _ :: _ =>
      fetchFavoured (Config.freeByteFirst s.drawCount) { s with drawCount := s.drawCount + 1 }
    | _, _ => fetchFavoured true s

/-- An illegal opcode changes nothing and responds `E_BAD_CMD` (R76). -/
def illegalCommand (s : State) : State := refuseCommand .badCmd s

/-- The command record of a table word's bytes: the bytes above the word are zero. A word that is no command gives its
opcode alone. -/
def tableCommand (nbits w : Nat) : Command :=
  match parseCommand (tableBytes nbits w) with
  | .ok (c, _) => c
  | .error _ => Command.bare (BitVec.ofNat 8 w)

/-- The state whose next step runs the RXB event `e`: the byte waits, its step goes first, and `xstate` holds the event's
state code, since the code is not on the wire (R64). A reserved code cannot be held (R72): nothing changes. -/
def withEvent (e : BitVec 11) (s : State) : State :=
  match XState.ofCode (e.extractLsb' 8 3) with
  | some x => { s with xstate := x, rxPort := e.extractLsb' 0 8 :: s.rxPort, sched := .byte :: s.sched }
  | none => s

/-- The state whose next step runs the command `c`. -/
def withCommand (c : Command) (s : State) : State :=
  { s with hostPort := c :: s.hostPort, sched := .command :: s.sched }

end Sys2Proof.Machine
end

