-- ==== Sys2Proof/Machine/Step.lean ====
section
/-! DEFINITION. One step of the block: the next event, run whole (20_memory.md R55, 43_transfer_protocol.md R109). -/

namespace Sys2Proof.Machine

/-- One step. An invalid configuration is refused: no rule of the spec applies to it (R6, R133). -/
def step (s : State) : Host.Outcome State Fault Refusal :=
  if configValid s.cfg then
    match fetch s with
    | .run i s' => exec i s'
    | .reset s' => .next (powerCycle s')
    | .illegal s' => .next (illegalCommand s')
    | .idle => .refused .noStepReady
    | .malformed => .refused .malformedCommand
    | .reserved => .fault .reservedXState
  else .refused .invalidConfiguration

/-- `s` with the word of spec/opcode_table.json stored where the next step takes its instruction: an RXB event at the
receive port, with the state code that selects its rule; a host command at the command port. -/
def State.withFetchWord (s : State) (nbits w : Nat) : State :=
  if isEventWidth nbits then withEvent (BitVec.ofNat 11 w) s else withCommand (tableCommand nbits w) s

end Sys2Proof.Machine
end

