-- ==== Sys2Proof/Machine/Wire.lean ====
section
/-! DEFINITION. The statements of the spec's programs and what they give the ports (30_encoding.md R79, R80): the bytes of a
packet on the wire (R68), and the order in which a program's statements arrive. -/

namespace Sys2Proof.Machine

/-- A statement (R79): `rx <byte>` or `cmd <MNEMONIC> …`, the latter as its CMD record. -/
inductive Stmt where
  | rx (b : Byte)
  | cmd (c : Command)
  deriving DecidableEq, Repr

/-- The bytes of one packet (R68): the start byte, the block number, the complement byte, the payload, the checksum with its
high byte first (R53 (a), R71). `sel` selects STX. -/
def packetBytes (sel : Bool) (n inv : Byte) (payload : List Byte) (crc : Half) : List Byte :=
  [if sel then 0x02 else 0x01, n, inv] ++ payload ++ [crc.extractLsb' 8 8, crc.extractLsb' 0 8]

/-- `rxpkt` with its good complement and checksum (R80). -/
def rxpkt (sel : Bool) (n : Byte) (payload : List Byte) : List Byte :=
  packetBytes sel n (0xFF - n) payload (crc16 payload)

/-- `rxpkt … inv=<v>` and `crc=<v>`, the bad packets (R80). -/
def rxpktWith (sel : Bool) (n : Byte) (payload : List Byte) (inv : Option Byte) (crc : Option Half) : List Byte :=
  packetBytes sel n (inv.getD (0xFF - n)) payload (crc.getD (crc16 payload))

/-- `rxeot` (R80). -/
def rxeot : List Byte := [0x04]

/-- `rxcan` (R80). -/
def rxcan : List Byte := [0x18]

/-- Gives the ports a program's statements, in its order: each byte to the receive port, each command to the host's, and the
schedule that keeps their order. -/
def feed : List Stmt → State → State
  | [], s => s
  | .rx b :: p, s => feed p { s with rxPort := s.rxPort ++ [b], sched := s.sched ++ [.byte] }
  | .cmd c :: p, s => feed p { s with hostPort := s.hostPort ++ [c], sched := s.sched ++ [.command] }

end Sys2Proof.Machine
end

