-- ==== Sys2Proof/Safety.lean ====
section
/-! DEFINITION. What the statements count as a good state and a safe run: the invariants that hold between steps
(10_state.md R18, R29; R147), the environments the statements speak of (ports that become ready, R50; the fault-free oracle,
R49), and the relation that hides what no rule reads (R37). -/

namespace Sys2Proof.Machine

/-- The invariant of the machine between steps. The bound of R29 on `pcount` is `plen`; a SOH after a 1024-byte packet
breaks that bound until the next matching complement (R110 leaves `pcount`), so the invariant holds the range of R25, and
the bound by `plen` where R29 needs it (notes/assumptions/8.md, Obligations.PayloadCounterCanExceedThePacketLength). -/
structure Inv (s : State) : Prop where
  /-- R6. -/
  cfg_valid : configValid s.cfg
  /-- R18: `0 <= offset <= PAGE_SIZE`. -/
  offset_le : s.offset ≤ s.cfg.pageSize
  /-- R18: `fwe_valid = 0` implies `offset = 0` and `cur_addr = 0`. -/
  not_init : s.fweValid = false → s.offset = 0 ∧ s.curAddr = 0
  /-- R18: `cur_addr mod PAGE_SIZE = 0`. -/
  aligned : s.curAddr.toNat % s.cfg.pageSize = 0
  /-- R15. -/
  mirror_length : s.mirror.length = s.cfg.pageSize
  /-- R26. -/
  pbuf_length : s.pbuf.length = maxPayload
  /-- The range of R25. -/
  pcount_le : s.pcount.toNat ≤ 1024
  /-- R29: `xstate = WaitData` implies `pcount < plen`. -/
  wait_data : s.xstate = .waitData → s.pcount.toNat < plen s
  /-- R29: `xstate` in `{WaitCrcHigh, WaitCrcLow}` implies `pcount = plen`. -/
  wait_crc : s.xstate = .waitCrcHigh ∨ s.xstate = .waitCrcLow → s.pcount.toNat = plen s
  /-- R29: `xstate != WaitStart` implies `xstatus = InProgress`. -/
  in_progress : s.xstate ≠ .waitStart → s.xstatus = .inProgress
  /-- R147: the port is locked at every step boundary. -/
  locked : s.locked = true
  /-- R16, R17, R136: the fault flag and the cause are set and cleared together. -/
  fault_cause : s.fweFault = true ↔ s.fweCause ≠ .none
  /-- The canonical form of the storage contents. -/
  storage_wf : Memory.wf s.cfg.erasedByte s.storage = true
  /-- R41: storage holds bytes at its own addresses only. -/
  storage_range : ∀ c ∈ s.storage, s.cfg.storageBase ≤ c.1 ∧ c.1 < s.cfg.storageBase + s.cfg.storageSize

/-- The storage port becomes ready whenever the block uses it (R50). -/
abbrev StorageReady (s : State) : Prop := (∀ e ∈ s.script, e ≠ .never) ∧ s.readLimit = none

/-- Both ports become ready whenever the block uses them (R50). -/
abbrev PortsReady (s : State) : Prop := StorageReady s ∧ s.txLimit = none

/-- The draws of the fault-free oracle (R49), `Ok` everywhere and no silent error, from a port that becomes ready. -/
abbrev FaultFree (s : State) : Prop := s.script = [] ∧ s.tail = .faultFree ∧ s.readLimit = none

/-- The configurations whose successful program operation leaves in an erased page what was asked (R101): `Overwrite`, or
`AndBits` with `ERASED_BYTE = 0xFF`. -/
abbrev ProgramsAsAsked (c : Config) : Prop := c.programSemantics = .overwrite ∨ c.erasedByte = 0xFF

/-- What a FlushProc from `s` that returned `r` leaves, `u` (R97 to R104): nothing but the FWE handle, the fault record, the
page at `cur_addr`, the lock, the draws and the reads left changes; success and failure each as R103 and R104 say. -/
structure Flushed (s u : State) (r : PortResult) : Prop where
  frame : u = { s with
    curAddr := u.curAddr, offset := u.offset, mirror := u.mirror, fweFault := u.fweFault, fweCause := u.fweCause
    storage := u.storage, locked := u.locked, diag := u.diag, script := u.script, drawCount := u.drawCount
    readLimit := u.readLimit }
  /-- R102: locked on every path. -/
  locked : u.locked = true
  /-- R97, R108: only the page at `cur_addr` is written. -/
  outside : ∀ a, a < s.curAddr.toNat ∨ s.curAddr.toNat + s.cfg.pageSize ≤ a → storageByte u a = storageByte s a
  /-- R101, R103. -/
  success : r = .ok →
    Erasable s.cfg s.curAddr.toNat ∧
    storageBytes u s.curAddr.toNat s.cfg.pageSize = s.mirror ∧
    u.offset = 0 ∧
    u.curAddr.toNat = s.curAddr.toNat + s.cfg.pageSize ∧
    (s.cfg.mirrorAfterFlush = .keep → u.mirror = s.mirror) ∧
    (s.cfg.mirrorAfterFlush = .reload → InStorage s.cfg u.curAddr.toNat s.cfg.pageSize →
      u.mirror = storageBytes u u.curAddr.toNat s.cfg.pageSize) ∧
    u.fweFault = s.fweFault ∧ u.fweCause = s.fweCause ∧ u.diag = s.diag
  /-- R104. -/
  failure : r = .fail →
    u.curAddr = s.curAddr ∧ u.offset = s.offset ∧ u.mirror = s.mirror ∧
    u.fweFault = true ∧ u.fweCause ≠ .none ∧ u.fweCause ≠ .notInit ∧
    u.diag = s.diag ++ [.storageFault u.fweCause]

/-- The state that XFR_CRCLO works on: the low half of `crc_rx` stored, `crc_calc` calculated, back in `WaitStart`
(R119). -/
def checksummed (b : Byte) (s : State) : State :=
  { s with
    crcRx := BitVec.ofNat 16 (s.crcRx.toNat / 256 * 256 + b.toNat)
    crcCalc := crc16 (s.pbuf.take (plen s))
    xstate := .waitStart }

/-- A draw of the fault-free oracle (R49). -/
def okDraw : ScriptEntry := .draw ⟨.ok, [], []⟩

/-- A draw that fails; the "any byte" values are `bs`. -/
def failDraw (bs : List Byte) : ScriptEntry := .draw ⟨.fail, bs, []⟩

/-- A run is safe where no step of it stops with a fault. -/
def NoFault (o : Host.Outcome State Fault Refusal) : Prop := ∀ f, o ≠ .fault f

/-- The payload bytes that the rules may still read: those of the current packet (R26). Between packets none is. -/
def payloadRead (s : State) : Nat :=
  match s.xstate with
  | .waitData | .waitCrcHigh | .waitCrcLow => s.pcount.toNat
  | .waitStart | .waitBlockNum | .waitBlockInv => 0

/-- Two states that differ only in bytes that hold no value by R37: the mirror before the first FWE_INIT, and the payload
bytes that the current packet has not written. -/
structure SameValues (s t : State) : Prop where
  rest : t = { s with mirror := t.mirror, pbuf := t.pbuf }
  mirror : s.fweValid = true → t.mirror = s.mirror
  payload : t.pbuf.take (payloadRead s) = s.pbuf.take (payloadRead s)

/-- Two outcomes that differ only there. -/
def SameOutcome (a b : Host.Outcome State Fault Refusal) : Prop :=
  match a, b with
  | .next s, .next t => SameValues s t
  | .fault f, .fault g => f = g
  | .refused r, .refused q => r = q
  | _, _ => False

/-- The mirror invariant (R18, R94): with `MIRROR_AFTER_FLUSH = Reload`, and while no storage fault has happened since
FWE_INIT, every mirror byte that Stage has not written is the storage byte it stands for. -/
def MirrorTail (s : State) : Prop :=
  s.fweValid = true → s.fweFault = false → s.cfg.mirrorAfterFlush = .reload →
  InStorage s.cfg s.curAddr.toNat s.cfg.pageSize →
  s.mirror.drop s.offset = (storageBytes s s.curAddr.toNat s.cfg.pageSize).drop s.offset

end Sys2Proof.Machine
end

