-- ==== Sys2Proof/Certificates/Slice0/Obligations.lean ====
section
/-! DEFINITION. The statements for the provers, each named by what it states; OBLIGATIONS.json gives their texts and the
rules of spec/ they formalise. -/

open Sys2Proof Sys2Proof.Machine

/-! ### Encoding -/

/-- Decoding inverts encoding, for every well-formed instruction with every operand (R67, R73, R75). -/
def Obligations.EncodedInstructionsDecode : Prop :=
  ∀ i : Instr, i.wellFormed = true → decode (encode i) = .ok i

/-- A command that travels as bytes decodes to itself, whatever bytes follow it (R73). -/
def Obligations.CommandBytesDecode : Prop :=
  ∀ (i : Instr) (bs rest : List Byte), i.wellFormed = true → encodeBytes i = some bs →
    decodeBytes (bs ++ rest) = .ok (i, rest)

/-- An event has at most one meaning: an instruction that an event decodes to is well formed and encodes to that event. -/
def Obligations.DecodedEventsEncodeBack : Prop :=
  ∀ (e : BitVec 11) (i : Instr), decodeEvent e = .ok i → i.wellFormed = true ∧ encode i = .event e

/-- The table of R67: one byte rule for each state and byte. -/
def Obligations.EventTableSelectsTheRule : Prop :=
  ∀ b : Byte,
    decodeEvent (rxEvent 0 b) = .ok
      (if b.toNat = 0x01 then .xfrSoh else if b.toNat = 0x02 then .xfrStx else if b.toNat = 0x04 then .xfrEot
        else if b.toNat = 0x18 then .xfrCan else .xfrNoise b) ∧
    decodeEvent (rxEvent 1 b) = .ok (.xfrBlknum b) ∧
    decodeEvent (rxEvent 2 b) = .ok (.xfrBlkinv b) ∧
    decodeEvent (rxEvent 3 b) = .ok (.xfrData b) ∧
    decodeEvent (rxEvent 4 b) = .ok (.xfrCrchi b) ∧
    decodeEvent (rxEvent 5 b) = .ok (.xfrCrclo b)

/-- Exactly the events 0x600 to 0x7FF are rejected (R72). -/
def Obligations.ReservedEventsAreRejected : Prop :=
  ∀ e : BitVec 11,
    (0x600 ≤ e.toNat → decodeEvent e = .error .reservedState) ∧ (e.toNat < 0x600 → ∃ i, decodeEvent e = .ok i)

/-- Exactly the seven opcodes of R75 are legal; every other one is illegal (R76). -/
def Obligations.OpcodesOutsideTheTableAreIllegal : Prop :=
  ∀ c : Command,
    decodeCommand c = .error (.illegalOpcode c.op) ↔
      c.op.toNat ∉ [0x01, 0x02, 0x03, 0x10, 0x11, 0x12, 0x20]

/-- Words written out from spec/opcode_table.json decode to their rows. That a word of 16 bits is an event and one of 8 bits a
command, and that the operand bytes the table gives no bits (of the words 0x11 and 0x20) are zero, is the model's own choice
(notes/assumptions/11.md). -/
def Obligations.TableWordsDecodeToTheirRows : Prop :=
  decodeTableWord 16 0x001 = some .xfrSoh ∧ decodeTableWord 16 0x018 = some .xfrCan ∧
  decodeTableWord 16 0x043 = some (.xfrNoise 0x43) ∧ decodeTableWord 16 0x2FE = some (.xfrBlkinv 0xFE) ∧
  decodeTableWord 16 0x54B = some (.xfrCrclo 0x4B) ∧ decodeTableWord 16 0x601 = none ∧
  decodeTableWord 8 0x02 = some .xfrProbe ∧ decodeTableWord 8 0x11 = some (.fweStage 0 []) ∧
  decodeTableWord 8 0x20 = some (.verVerify 0) ∧ decodeTableWord 8 0x13 = none

/-! ### A step -/

/-- A step runs the instruction of the event that waits, its event consumed: the byte's rule or the host's command, where the
schedule lets it go first, and where nothing else waits. -/
def Obligations.StepRunsTheDecodedInstruction : Prop :=
  (∀ (s : State) (b : Byte) (rest : List Byte) (q : List Turn) (i : Instr),
    configValid s.cfg → s.rxPort = b :: rest → decodeEvent (rxEvent s.xstate.code b) = .ok i →
    (s.sched = .byte :: q → step s = exec i { s with rxPort := rest, sched := q }) ∧
    (s.sched = .command :: q → s.hostPort = [] → step s = exec i { s with rxPort := rest, sched := q }) ∧
    (s.sched = [] → s.hostPort = [] → step s = exec i { s with rxPort := rest })) ∧
  (∀ (s : State) (c : Command) (rest : List Command) (q : List Turn) (i : Instr),
    configValid s.cfg → s.hostPort = c :: rest → decodeCommand c = .ok i →
    (s.sched = .command :: q → step s = exec i { s with hostPort := rest, sched := q }) ∧
    (s.sched = .byte :: q → s.rxPort = [] → step s = exec i { s with hostPort := rest, sched := q }) ∧
    (s.sched = [] → s.rxPort = [] → step s = exec i { s with hostPort := rest }))

/-- Where a byte and a command wait and the schedule says nothing, either may go first (R143); the choice is a free value. -/
def Obligations.UnscheduledStepRunsEitherAgent : Prop :=
  ∀ (s : State) (b : Byte) (bs : List Byte) (c : Command) (cs : List Command) (i j : Instr),
    configValid s.cfg → s.rxPort = b :: bs → s.hostPort = c :: cs → s.sched = [] →
    decodeEvent (rxEvent s.xstate.code b) = .ok i → decodeCommand c = .ok j →
    step s = exec i { s with rxPort := bs, drawCount := s.drawCount + 1 } ∨
    step s = exec j { s with hostPort := cs, drawCount := s.drawCount + 1 }

/-- An illegal opcode changes nothing and answers `E_BAD_CMD` with value 0 (R76), however its step comes about: the schedule
lets the host go first, or nothing waits at the receive port, or a byte waits as well and the choice is free (R143). The
schedule and the counter of the free choice are the model's own fields (notes/assumptions/9.md, DESIGN CHOICE). -/
def Obligations.IllegalOpcodeAnswersBadCmd : Prop :=
  ∀ (s : State) (c : Command) (rest : List Command) (q : List Turn),
    configValid s.cfg → s.hostPort = c :: rest →
    c.op.toNat ∉ [0x01, 0x02, 0x03, 0x10, 0x11, 0x12, 0x20] →
    let resp := s.resp ++ [⟨.badCmd, 0⟩]
    (s.sched = .command :: q → step s = .next { s with hostPort := rest, sched := q, resp }) ∧
    (s.sched = .byte :: q → s.rxPort = [] → step s = .next { s with hostPort := rest, sched := q, resp }) ∧
    (s.sched = [] → s.rxPort = [] → step s = .next { s with hostPort := rest, resp }) ∧
    (∀ (b : Byte) (bs : List Byte) (i : Instr), s.sched = [] → s.rxPort = b :: bs →
      decodeEvent (rxEvent s.xstate.code b) = .ok i →
      step s = exec i { s with rxPort := bs, drawCount := s.drawCount + 1 } ∨
      step s = .next { s with hostPort := rest, drawCount := s.drawCount + 1, resp })

/-- A step refuses exactly where the model is not built, no event waits, or what waits is no command. -/
def Obligations.StepRefusesOnlyByName : Prop :=
  ∀ (s : State) (r : Refusal), step s = .refused r →
    (r = .invalidConfiguration ∧ ¬ configValid s.cfg) ∨
    (r = .noStepReady ∧ s.rxPort = [] ∧ s.hostPort = []) ∨
    (r = .malformedCommand ∧ ∃ c rest, s.hostPort = c :: rest ∧ c.op.toNat = 0x11 ∧ c.d.length ≠ c.l.toNat)

/-! ### Reset -/

/-- Power-on reset: the registers of R39, the port locked (R44), the logs empty and storage as it was (R40), for a block that
runs and in the state after reset. `mirror` and `pbuf` have no value at reset (R37), so nothing is said of theirs. That a reset
is an entry of the schedule, and that the schedule, the waiting bytes and the waiting commands outlive it, is the model's own
choice (notes/assumptions/17.md). -/
def Obligations.PowerOnResetClearsTheBlock : Prop :=
  let Cleared := fun t : State =>
    t.fweValid = false ∧ t.curAddr = 0 ∧ t.offset = 0 ∧ t.fweFault = false ∧ t.fweCause = .none ∧
    t.xstate = .waitStart ∧ t.xstatus = .idle ∧ t.blk = 0 ∧ t.blkInv = 0 ∧ t.expectedBlk = 1 ∧
    t.plenSel = false ∧ t.pcount = 0 ∧ t.crcRx = 0 ∧ t.crcCalc = 0 ∧ t.locked = true ∧ t.tx = [] ∧ t.diag = []
  Cleared State.reset ∧
  ∀ (s : State) (q : List Turn), configValid s.cfg → s.sched = .reset :: q →
    ∃ t, step s = .next t ∧ Cleared t ∧ t.storage = s.storage ∧ t.cfg = s.cfg ∧
      t.rxPort = s.rxPort ∧ t.hostPort = s.hostPort ∧ t.sched = q

/-! ### Invariants -/

/-- The invariant holds after reset, for every valid configuration and every storage contents in canonical form. -/
def Obligations.ResetMeetsTheInvariant : Prop :=
  Inv State.reset ∧
  ∀ (c : Config) (m : Memory), configValid c → Memory.wf c.erasedByte m = true →
    (∀ e ∈ m, c.storageBase ≤ e.1 ∧ e.1 < c.storageBase + c.storageSize) → Inv (State.powerOn c m)

/-- Every step keeps the invariant (R18, R29, R147). -/
def Obligations.StepKeepsTheInvariant : Prop :=
  ∀ s t : State, Inv s → step s = .next t → Inv t

/-- No step from a good state stops with a fault where the ports become ready, and the ports stay so. -/
def Obligations.StepNeverFaults : Prop :=
  ∀ s : State, Inv s → PortsReady s → NoFault (step s) ∧ ∀ t, step s = .next t → PortsReady t

/-- Every step keeps the mirror invariant (R94), from every state that meets the invariant. -/
def Obligations.StepKeepsTheMirrorTail : Prop :=
  ∀ s t : State, Inv s → MirrorTail s → step s = .next t → MirrorTail t

/-- No step reads a byte that holds no value (R37): states that differ only there take steps that differ only there. -/
def Obligations.UnwrittenBytesAreNeverRead : Prop :=
  ∀ s t : State, Inv s → Inv t → SameValues s t → SameOutcome (step s) (step t)

/-- The bound `pcount <= plen` of R25 and R29 is NOT kept by every step: SOH leaves `pcount` (R110), so after a 1024-byte
packet the count exceeds the new length. From a good state it fails nowhere else: only with the length 128 selected, and only
before the next matching complement. The model's own finding (notes/assumptions/8.md). -/
def Obligations.PayloadCounterCanExceedThePacketLength : Prop :=
  (∃ s t : State, Inv s ∧ s.pcount.toNat ≤ plen s ∧ step s = .next t ∧ plen t < t.pcount.toNat) ∧
  ∀ s : State, Inv s → plen s < s.pcount.toNat →
    s.plenSel = false ∧ (s.xstate = .waitStart ∨ s.xstate = .waitBlockNum ∨ s.xstate = .waitBlockInv)

/-! ### Byte rules -/

/-- XFR_SOH and XFR_STX (R110, R111): the length, the state and the status, and nothing else. -/
def Obligations.SohAndStxStartAPacket : Prop :=
  ∀ s : State,
    exec .xfrSoh s = .next { s with plenSel := false, xstate := .waitBlockNum, xstatus := .inProgress } ∧
    exec .xfrStx s = .next { s with plenSel := true, xstate := .waitBlockNum, xstatus := .inProgress }

/-- XFR_CAN (R113): the handle is reset and the status is Interrupted; FWE and `pbuf` are unchanged. -/
def Obligations.CanInterruptsTheTransfer : Prop :=
  ∀ s : State,
    exec .xfrCan s = .next { s with
      xstate := .waitStart, xstatus := .interrupted, blk := 0, blkInv := 0, expectedBlk := 1, plenSel := false
      pcount := 0, crcRx := 0, crcCalc := 0 }

/-- XFR_NOISE (R114): only the log grows. XFR_BLKNUM (R115): every byte is accepted as the block number. -/
def Obligations.NoiseIsLoggedAndBlockNumberStored : Prop :=
  ∀ (b : Byte) (s : State),
    exec (.xfrNoise b) s = .next { s with diag := s.diag ++ [.noise b] } ∧
    exec (.xfrBlknum b) s = .next { s with blk := b, xstate := .waitBlockInv }

/-- XFR_BLKINV (R116, R70): the sum mod 256 decides, and it is 0xFF exactly where the complement is bitwise NOT. -/
def Obligations.ComplementDecidesTheHeader : Prop :=
  ∀ (b : Byte) (s : State), s.txLimit = none →
    ((s.blk.toNat + b.toNat) % 256 = 0xFF ↔ b = ~~~ s.blk) ∧
    ((s.blk.toNat + b.toNat) % 256 = 0xFF →
      exec (.xfrBlkinv b) s = .next { s with blkInv := b, pcount := 0, xstate := .waitData }) ∧
    ((s.blk.toNat + b.toNat) % 256 ≠ 0xFF →
      exec (.xfrBlkinv b) s = .next { s with
        blkInv := b, xstate := .waitStart, tx := s.tx ++ [0x15], diag := s.diag ++ [.badComplement s.blk b] })

/-- XFR_DATA (R117): the byte is appended to the payload, and the byte that completes it moves on. -/
def Obligations.DataAppendsToThePayload : Prop :=
  ∀ (b : Byte) (s : State), Inv s → s.xstate = .waitData →
    ∃ t, exec (.xfrData b) s = .next t ∧
      t = { s with pbuf := t.pbuf, pcount := t.pcount, xstate := t.xstate } ∧
      t.pcount.toNat = s.pcount.toNat + 1 ∧
      t.pbuf.take t.pcount.toNat = s.pbuf.take s.pcount.toNat ++ [b] ∧
      t.pbuf.drop t.pcount.toNat = s.pbuf.drop t.pcount.toNat ∧
      t.xstate = if s.pcount.toNat + 1 = plen s then .waitCrcHigh else .waitData

/-- XFR_CRCHI (R118): the high half is the byte, the low half is kept. -/
def Obligations.ChecksumHighByteIsStored : Prop :=
  ∀ (b : Byte) (s : State), ∃ t, exec (.xfrCrchi b) s = .next t ∧
    t = { s with crcRx := t.crcRx, xstate := .waitCrcLow } ∧
    t.crcRx.toNat = b.toNat * 256 + s.crcRx.toNat % 256

/-- XFR_CRCLO, checksum mismatch (R119): NAK, the log, the packet discarded, whatever its number. -/
def Obligations.BadChecksumIsRejected : Prop :=
  ∀ (b : Byte) (s : State), s.txLimit = none →
    (checksummed b s).crcCalc ≠ (checksummed b s).crcRx →
    exec (.xfrCrclo b) s = .next { checksummed b s with
      tx := s.tx ++ [0x15]
      diag := s.diag ++ [.badCrc (checksummed b s).crcRx (checksummed b s).crcCalc] }

/-- XFR_CRCLO, in sequence with room (R119): the payload is staged at `offset`, the number advances, ACK. -/
def Obligations.PacketInSequenceIsStaged : Prop :=
  ∀ (b : Byte) (s : State), Inv s → s.txLimit = none → s.xstate = .waitCrcLow →
    (checksummed b s).crcCalc = (checksummed b s).crcRx → s.blk = s.expectedBlk → s.fweValid = true →
    s.offset + plen s ≤ s.cfg.pageSize →
    ∃ t, exec (.xfrCrclo b) s = .next t ∧
      t = { checksummed b s with
        mirror := t.mirror, offset := s.offset + plen s, expectedBlk := s.expectedBlk + 1, tx := s.tx ++ [0x06] } ∧
      t.mirror.length = s.mirror.length ∧
      ∀ i, t.mirror[i]? =
        if s.offset ≤ i ∧ i < s.offset + plen s then s.pbuf[i - s.offset]? else s.mirror[i]?

/-- XFR_CRCLO, in sequence without room (R119, R121, R137), for every draw of the oracle: one FlushProc; where it succeeds the
payload is staged at the start of the new page and ACKed, where it fails nothing is sent and `expected_blk` is unchanged. -/
def Obligations.RoomCheckFlushesBeforeStaging : Prop :=
  ∀ (b : Byte) (s : State), Inv s → PortsReady s → s.xstate = .waitCrcLow →
    (checksummed b s).crcCalc = (checksummed b s).crcRx → s.blk = s.expectedBlk → s.fweValid = true →
    s.cfg.pageSize < s.offset + plen s →
    ∃ r u, flushProc (checksummed b s) = .ok (r, u) ∧ Flushed (checksummed b s) u r ∧
      (r = .ok → exec (.xfrCrclo b) s = .next { u with
        mirror := s.pbuf.take (plen s) ++ u.mirror.drop (plen s), offset := plen s
        expectedBlk := s.expectedBlk + 1, tx := s.tx ++ [0x06] }) ∧
      (r = .fail → exec (.xfrCrclo b) s = .next u)

/-- XFR_CRCLO, duplicate (R122): ACK, nothing staged, whatever the payload. The number before 0 is 255 (R128). -/
def Obligations.DuplicateIsAcknowledgedNotStaged : Prop :=
  ∀ (b : Byte) (s : State), s.txLimit = none →
    (checksummed b s).crcCalc = (checksummed b s).crcRx → (s.blk.toNat + 1) % 256 = s.expectedBlk.toNat →
    exec (.xfrCrclo b) s = .next { checksummed b s with tx := s.tx ++ [0x06] }

/-- XFR_CRCLO, any other number (R119): NAK and the log. -/
def Obligations.OutOfSequencePacketIsRejected : Prop :=
  ∀ (b : Byte) (s : State), s.txLimit = none →
    (checksummed b s).crcCalc = (checksummed b s).crcRx → s.blk ≠ s.expectedBlk →
    (s.blk.toNat + 1) % 256 ≠ s.expectedBlk.toNat →
    exec (.xfrCrclo b) s = .next { checksummed b s with
      tx := s.tx ++ [0x15], diag := s.diag ++ [.badSequence s.blk s.expectedBlk] }

/-- XFR_CRCLO, in sequence before FWE_INIT (R140): the storage fault FC_NOT_INIT, no reply. -/
def Obligations.PacketBeforeInitIsAStorageFault : Prop :=
  ∀ (b : Byte) (s : State),
    (checksummed b s).crcCalc = (checksummed b s).crcRx → s.blk = s.expectedBlk → s.fweValid = false →
    exec (.xfrCrclo b) s = .next { checksummed b s with
      fweFault := true, fweCause := .notInit, diag := s.diag ++ [.storageFault .notInit] }

/-- XFR_EOT with nothing staged (R112): ACK, no storage operation, Finished. -/
def Obligations.EotWithNothingStagedFinishes : Prop :=
  ∀ s : State, s.txLimit = none → s.offset = 0 →
    exec .xfrEot s = .next { s with
      tx := s.tx ++ [0x06], xstate := .waitStart, xstatus := .finished, blk := 0, blkInv := 0, expectedBlk := 1
      plenSel := false, pcount := 0, crcRx := 0, crcCalc := 0 }

/-- XFR_EOT with staged bytes (R112, R146), for every draw of the oracle: the ACK first, then one FlushProc, then the
reset of the handle; a failed flush gives the status `EOT_FLUSH_FAIL` selects. -/
def Obligations.EotFlushesTheLastPage : Prop :=
  ∀ s : State, Inv s → PortsReady s → 0 < s.offset →
    ∃ r u, flushProc { s with tx := s.tx ++ [0x06] } = .ok (r, u) ∧ Flushed { s with tx := s.tx ++ [0x06] } u r ∧
      exec .xfrEot s = .next { u with
        xstate := .waitStart
        xstatus := if r = .ok ∨ s.cfg.eotFlushFail = .finished then .finished else .interrupted
        blk := 0, blkInv := 0, expectedBlk := 1, plenSel := false, pcount := 0, crcRx := 0, crcCalc := 0 }

/-! ### Host commands of XFR -/

/-- XFR_START (R129): refused while a transfer is in progress; else the handle is reset, the status is Idle, and FWE and
`pbuf` are unchanged. -/
def Obligations.StartBeginsAnAttempt : Prop :=
  ∀ s : State,
    (s.xstatus = .inProgress → exec .xfrStart s = .next { s with resp := s.resp ++ [⟨.busy, 0⟩] }) ∧
    (s.xstatus ≠ .inProgress → exec .xfrStart s = .next { s with
      xstate := .waitStart, xstatus := .idle, blk := 0, blkInv := 0, expectedBlk := 1, plenSel := false, pcount := 0
      crcRx := 0, crcCalc := 0, resp := s.resp ++ [⟨.ok, 0⟩] })

/-- XFR_PROBE (R130): the probe byte while Idle, nothing otherwise. -/
def Obligations.ProbeIsSentOnlyWhileIdle : Prop :=
  ∀ s : State, s.txLimit = none →
    (s.xstatus = .idle →
      exec .xfrProbe s = .next { s with tx := s.tx ++ [0x43], resp := s.resp ++ [⟨.ok, 1⟩] }) ∧
    (s.xstatus ≠ .idle → exec .xfrProbe s = .next { s with resp := s.resp ++ [⟨.ok, 0⟩] })

/-- RDREG (R36, R131): the value of each register of the map as a number, bit by bit of its table; nothing else changes. -/
def Obligations.RdregReadsTheRegisterMap : Prop :=
  ∀ (n : Byte) (s : State),
    ∃ v : Word, exec (.rdreg n) s = .next { s with resp := s.resp ++ [⟨if n.toNat ≤ 6 then .ok else .badReg, v⟩] } ∧
      v.toNat =
        if n.toNat = 0 then
          (match s.xstate with
            | .waitStart => 0 | .waitBlockNum => 1 | .waitBlockInv => 2
            | .waitData => 3 | .waitCrcHigh => 4 | .waitCrcLow => 5) +
          2 ^ 4 * (match s.xstatus with | .idle => 0 | .inProgress => 1 | .finished => 2 | .interrupted => 3) +
          2 ^ 8 * s.plenSel.toNat
        else if n.toNat = 1 then s.blk.toNat + 2 ^ 8 * s.blkInv.toNat + 2 ^ 16 * s.expectedBlk.toNat
        else if n.toNat = 2 then s.pcount.toNat
        else if n.toNat = 3 then s.crcRx.toNat + 2 ^ 16 * s.crcCalc.toNat
        else if n.toNat = 4 then s.curAddr.toNat
        else if n.toNat = 5 then s.offset % 2 ^ 32
        else if n.toNat = 6 then
          s.fweValid.toNat + 2 * s.fweFault.toNat +
          2 ^ 4 * (match s.fweCause with
            | .none => 0 | .unlock => 1 | .erase => 2 | .program => 3 | .verify => 4 | .lock => 5 | .notInit => 6)
        else 0

/-! ### Host commands of FWE -/

/-- FWE_INIT of an aligned page in storage (R93): the handle, the mirror loaded byte for byte, the fault cleared. -/
def Obligations.InitLoadsThePage : Prop :=
  ∀ (a : Word) (s : State), s.readLimit = none → s.xstatus ≠ .inProgress → a.toNat % s.cfg.pageSize = 0 →
    InStorage s.cfg a.toNat s.cfg.pageSize →
    ∃ t, exec (.fweInit a) s = .next t ∧
      t = { s with
        curAddr := a, offset := 0, mirror := t.mirror, fweValid := true, fweFault := false, fweCause := .none
        resp := s.resp ++ [⟨.ok, 0⟩] } ∧
      t.mirror.length = s.cfg.pageSize ∧
      ∀ i, (h : i < t.mirror.length) → t.mirror[i] = storageByte s (a.toNat + i)

/-- FWE_STAGE of bytes that fit (R95, R96): they land at `offset`, the rest of the mirror is unchanged, and the value is the
new offset. -/
def Obligations.StageCopiesIntoTheMirror : Prop :=
  ∀ (l : Half) (d : List Byte) (s : State), Inv s → d.length = l.toNat → s.xstatus ≠ .inProgress →
    s.fweValid = true → s.offset + l.toNat ≤ s.cfg.pageSize →
    ∃ t, exec (.fweStage l d) s = .next t ∧
      t = { s with
        mirror := t.mirror, offset := s.offset + l.toNat
        resp := s.resp ++ [⟨.ok, BitVec.ofNat 32 (s.offset + l.toNat)⟩] } ∧
      t.mirror.length = s.mirror.length ∧
      ∀ i, t.mirror[i]? =
        if s.offset ≤ i ∧ i < s.offset + l.toNat then d[i - s.offset]? else s.mirror[i]?

/-- FWE_FLUSH (R97, R102 to R105), for every draw of the oracle: one FlushProc, its success or failure as R103 and R104 say, and
the response that reports it. -/
def Obligations.FlushCommitsOrKeepsTheHandle : Prop :=
  ∀ s : State, Inv s → StorageReady s → s.xstatus ≠ .inProgress → s.fweValid = true →
    ∃ r u, flushProc s = .ok (r, u) ∧ Flushed s u r ∧
      exec .fweFlush s = .next { u with resp := s.resp ++
        [if r = .ok then ⟨.ok, u.curAddr⟩ else ⟨.flushFail, (causeCode u.fweCause).setWidth 32⟩] }

/-- FWE_FLUSH under the fault-free oracle (R97, R101, R103), of a page in range, with `Overwrite` or with `AndBits` and
`ERASED_BYTE = 0xFF`: it succeeds, and the page holds the mirror. Under `Reload` the mirror is then the next page's bytes where
that page lies in storage, under `Keep` it is unchanged. -/
def Obligations.FaultFreeFlushWritesThePage : Prop :=
  ∀ s : State, Inv s → FaultFree s → ProgramsAsAsked s.cfg → s.xstatus ≠ .inProgress → s.fweValid = true →
    Erasable s.cfg s.curAddr.toNat →
    ∃ t, exec .fweFlush s = .next t ∧
      t = { s with
        storage := t.storage, curAddr := s.curAddr + BitVec.ofNat 32 s.cfg.pageSize, offset := 0, mirror := t.mirror
        drawCount := t.drawCount
        resp := s.resp ++ [⟨.ok, s.curAddr + BitVec.ofNat 32 s.cfg.pageSize⟩] } ∧
      (∀ i, (h : i < s.mirror.length) → storageByte t (s.curAddr.toNat + i) = s.mirror[i]) ∧
      (∀ a, a < s.curAddr.toNat ∨ s.curAddr.toNat + s.cfg.pageSize ≤ a → storageByte t a = storageByte s a) ∧
      t.mirror.length = s.cfg.pageSize ∧
      (s.cfg.mirrorAfterFlush = .keep → t.mirror = s.mirror) ∧
      (s.cfg.mirrorAfterFlush = .reload → InStorage s.cfg (s.curAddr.toNat + s.cfg.pageSize) s.cfg.pageSize →
        ∀ i, (h : i < t.mirror.length) → t.mirror[i] = storageByte s (s.curAddr.toNat + s.cfg.pageSize + i))

/-- The unlock step (R98): a failed unlock fails the flush with FC_UNLOCK and leaves storage as it was, whatever the lock
returns. -/
def Obligations.FailedUnlockLeavesStorage : Prop :=
  ∀ (s : State) (bs : List Byte) (l : Draw) (rest : List ScriptEntry),
    s.xstatus ≠ .inProgress → s.fweValid = true → s.script = failDraw bs :: .draw l :: rest →
    exec .fweFlush s = .next { s with
      locked := true, fweFault := true, fweCause := .unlock, diag := s.diag ++ [.storageFault .unlock]
      script := rest, drawCount := s.drawCount + 2, resp := s.resp ++ [⟨.flushFail, 1⟩] }

/-- The erase step (R47, R99): a page out of range fails with FC_ERASE and leaves storage as it was; a failed erase of a page in
range leaves any bytes in that page. A page that ends at 2^32 counts as out of range (R42; notes/assumptions/5.md). -/
def Obligations.FailedEraseStopsTheFlush : Prop :=
  ∀ (s : State) (l : Draw) (rest : List ScriptEntry),
    Inv s → s.xstatus ≠ .inProgress → s.fweValid = true →
    (s.script = okDraw :: .draw l :: rest → ¬ Erasable s.cfg s.curAddr.toNat →
      exec .fweFlush s = .next { s with
        fweFault := true, fweCause := .erase, diag := s.diag ++ [.storageFault .erase]
        script := rest, drawCount := s.drawCount + 2, resp := s.resp ++ [⟨.flushFail, 2⟩] }) ∧
    (∀ bs : List Byte, bs.length = s.cfg.pageSize → s.script = okDraw :: failDraw bs :: .draw l :: rest →
      Erasable s.cfg s.curAddr.toNat →
      ∃ t, exec .fweFlush s = .next t ∧
        t = { s with
          storage := t.storage
          fweFault := true, fweCause := .erase, diag := s.diag ++ [.storageFault .erase]
          script := rest, drawCount := s.drawCount + 3, resp := s.resp ++ [⟨.flushFail, 2⟩] } ∧
        storageBytes t s.curAddr.toNat s.cfg.pageSize = bs ∧
        ∀ a, a < s.curAddr.toNat ∨ s.curAddr.toNat + s.cfg.pageSize ≤ a → storageByte t a = storageByte s a)

/-- The program step (R100): where unit `k` is the first to fail, the units below it hold what `PROGRAM_SEMANTICS` makes of the
mirror over erased bytes (R48), the unit holds any bytes, and the units above it are erased and not programmed. -/
def Obligations.FirstFailedUnitStopsTheProgramStep : Prop :=
  ∀ (s : State) (k : Nat) (bs : List Byte) (l : Draw) (rest : List ScriptEntry),
    Inv s → s.xstatus ≠ .inProgress → s.fweValid = true →
    Erasable s.cfg s.curAddr.toNat → k < s.cfg.pageSize / s.cfg.progUnit →
    bs.length = s.cfg.progUnit →
    s.script = List.replicate (2 + k) okDraw ++ failDraw bs :: .draw l :: rest →
    ∃ t, exec .fweFlush s = .next t ∧
      t = { s with
        storage := t.storage
        fweFault := true, fweCause := .program, diag := s.diag ++ [.storageFault .program]
        script := rest, drawCount := s.drawCount + (k + 4), resp := s.resp ++ [⟨.flushFail, 3⟩] } ∧
      ∀ a, storageByte t a =
        if a < s.curAddr.toNat ∨ s.curAddr.toNat + s.cfg.pageSize ≤ a then storageByte s a
        else if a < s.curAddr.toNat + k * s.cfg.progUnit then
          match s.cfg.programSemantics with
          | .overwrite => s.mirror.getD (a - s.curAddr.toNat) 0
          | .andBits => s.cfg.erasedByte &&& s.mirror.getD (a - s.curAddr.toNat) 0
        else if a < s.curAddr.toNat + (k + 1) * s.cfg.progUnit then
          bs.getD (a - (s.curAddr.toNat + k * s.cfg.progUnit)) 0
        else s.cfg.erasedByte

/-- The verify step (R101): a unit that reports `Ok` but holds a byte that the mirror does not (a silent program error, R48)
fails the flush with FC_VERIFY; the wrong byte stays where it landed (R108). -/
def Obligations.SilentProgramErrorFailsTheVerify : Prop :=
  ∀ (s : State) (k j : Nat) (b : Byte) (mis : List (Option Byte)) (l : Draw) (rest : List ScriptEntry),
    Inv s → s.readLimit = none → s.xstatus ≠ .inProgress → s.fweValid = true →
    Erasable s.cfg s.curAddr.toNat → k < s.cfg.pageSize / s.cfg.progUnit → j < s.cfg.progUnit →
    mis[j]? = some (some b) → s.mirror[k * s.cfg.progUnit + j]? ≠ some b →
    s.script = List.replicate (2 + k) okDraw ++ .draw ⟨.ok, [], mis⟩ ::
      (List.replicate (s.cfg.pageSize / s.cfg.progUnit - (k + 1)) okDraw ++ .draw l :: rest) →
    ∃ t, exec .fweFlush s = .next t ∧
      t = { s with
        storage := t.storage
        fweFault := true, fweCause := .verify, diag := s.diag ++ [.storageFault .verify]
        script := rest, drawCount := t.drawCount, resp := s.resp ++ [⟨.flushFail, 4⟩] } ∧
      storageByte t (s.curAddr.toNat + (k * s.cfg.progUnit + j)) = b ∧
      ∀ a, a < s.curAddr.toNat ∨ s.curAddr.toNat + s.cfg.pageSize ≤ a → storageByte t a = storageByte s a

/-- The lock step (R102): a lock that fails after a page that was written and verified fails the flush with FC_LOCK; the
page holds the mirror (R108) and the port is locked (R46). -/
def Obligations.FailedLockFailsAWrittenFlush : Prop :=
  ∀ (s : State) (bs : List Byte) (rest : List ScriptEntry),
    Inv s → s.readLimit = none → s.xstatus ≠ .inProgress → s.fweValid = true → ProgramsAsAsked s.cfg →
    Erasable s.cfg s.curAddr.toNat →
    s.script = List.replicate (2 + s.cfg.pageSize / s.cfg.progUnit) okDraw ++ failDraw bs :: rest →
    ∃ t, exec .fweFlush s = .next t ∧
      t = { s with
        storage := t.storage
        fweFault := true, fweCause := .lock, diag := s.diag ++ [.storageFault .lock]
        script := rest, drawCount := t.drawCount, resp := s.resp ++ [⟨.flushFail, 5⟩] } ∧
      storageBytes t s.curAddr.toNat s.cfg.pageSize = s.mirror ∧
      ∀ a, a < s.curAddr.toNat ∨ s.curAddr.toNat + s.cfg.pageSize ≤ a → storageByte t a = storageByte s a

/-- Retry (R106): a flush under the fault-free oracle, after one that failed in any way, succeeds and leaves storage as if
the first had succeeded. -/
def Obligations.RetryLeavesStorageAsIfNothingFailed : Prop :=
  ∀ (s t : State) (v : Word), Inv s → s.xstatus ≠ .inProgress → s.fweValid = true →
    ProgramsAsAsked s.cfg → Erasable s.cfg s.curAddr.toNat →
    exec .fweFlush s = .next t → t.resp = s.resp ++ [⟨.flushFail, v⟩] →
    ∃ u w, exec .fweFlush { t with script := [], tail := .faultFree, readLimit := none } = .next u ∧
      exec .fweFlush { s with script := [], tail := .faultFree, readLimit := none } = .next w ∧
      u.storage = w.storage ∧ u.offset = 0 ∧ storageBytes u s.curAddr.toNat s.cfg.pageSize = s.mirror

/-- The refusals of the writing commands, in the order of R135: `E_BUSY` first (R38), then each command's own checks; nothing
but the response changes and its value is 0 (R134). The numbers of the response codes are those of R134. -/
def Obligations.RefusedCommandsOnlyRespond : Prop :=
  (respCode .ok).toNat = 0x00 ∧ (respCode .badCmd).toNat = 0x01 ∧ (respCode .busy).toNat = 0x02 ∧
  (respCode .notInit).toNat = 0x03 ∧ (respCode .misaligned).toNat = 0x04 ∧ (respCode .range).toNat = 0x05 ∧
  (respCode .overflow).toNat = 0x06 ∧ (respCode .flushFail).toNat = 0x07 ∧ (respCode .badReg).toNat = 0x08 ∧
  ∀ (s : State) (a : Word) (l : Half) (d : List Byte),
    (s.xstatus = .inProgress →
      ∀ i ∈ [Instr.xfrStart, .fweInit a, .fweStage l d, .fweFlush],
        exec i s = .next { s with resp := s.resp ++ [⟨.busy, 0⟩] }) ∧
    (s.xstatus ≠ .inProgress →
      (a.toNat % s.cfg.pageSize ≠ 0 →
        exec (.fweInit a) s = .next { s with resp := s.resp ++ [⟨.misaligned, 0⟩] }) ∧
      (a.toNat % s.cfg.pageSize = 0 → ¬ InStorage s.cfg a.toNat s.cfg.pageSize →
        exec (.fweInit a) s = .next { s with resp := s.resp ++ [⟨.range, 0⟩] }) ∧
      (s.fweValid = false → ∀ i ∈ [Instr.fweStage l d, .fweFlush],
        exec i s = .next { s with resp := s.resp ++ [⟨.notInit, 0⟩] }) ∧
      (s.fweValid = true → s.cfg.pageSize < s.offset + l.toNat →
        exec (.fweStage l d) s = .next { s with resp := s.resp ++ [⟨.overflow, 0⟩] }))

/-! ### VER_VERIFY -/

/-- VER_VERIFY (R92): value 1 exactly where the five conditions hold, read from the storage bytes; no register and no storage
byte changes (R89). It holds for every header record whose fields lie in the header (R78): each field is the number its bytes
make, in the record's byte order; the last clause spells it out for the record of R77, with any magic. That one byte order
serves every field, that the magic may be of any size, that fields may overlap and stand in any order, and that `HDR_SIZE`
and the widths may be any numbers is the model's own choice (notes/assumptions/16.md, 22.md, 23.md, 24.md, 25.md,
DESIGN CHOICE); the premise on `readLimit` is that of 15.md. -/
def Obligations.VerifyAcceptsExactly : Prop :=
  ∀ (a : Word) (s : State), s.readLimit = none → headerFits s.cfg.header →
    let l := s.cfg.header
    let h := fun i => (storageByte s (a.toNat + i)).toNat
    let field := fun off width => ((List.range width).map fun j =>
      match l.order with
      | .little => 2 ^ (8 * j) * h (off + j)
      | .big => 2 ^ (8 * (width - 1 - j)) * h (off + j)).sum
    let size := field l.sizeOffset l.sizeWidth
    ∃ v : Word, exec (.verVerify a) s = .next { s with resp := s.resp ++ [⟨.ok, v⟩] } ∧ (v = 0 ∨ v = 1) ∧
      (v = 1 ↔
        InStorage s.cfg a.toNat l.hdrSize ∧
        field l.magicOffset l.magicWidth = l.magic ∧
        0 < size ∧ size ≤ slotCapacity s.cfg ∧
        InStorage s.cfg (a.toNat + l.hdrSize) size ∧
        (crc16 (storageBytes s (a.toNat + l.hdrSize) size)).toNat = field l.checksumOffset 2) ∧
      (l = { HeaderLayout.standard with magic := l.magic } →
        let size := h 4 + 2 ^ 8 * h 5 + 2 ^ 16 * h 6 + 2 ^ 24 * h 7
        (v = 1 ↔
          InStorage s.cfg a.toNat 16 ∧
          h 0 + 2 ^ 8 * h 1 + 2 ^ 16 * h 2 + 2 ^ 24 * h 3 = l.magic ∧
          0 < size ∧ size ≤ slotCapacity s.cfg ∧
          InStorage s.cfg (a.toNat + 16) size ∧
          (crc16 (storageBytes s (a.toNat + 16) size)).toNat = h 12 + 2 ^ 8 * h 13))

/-- VER_VERIFY for every header record (R86, R89): it answers `OK` in every state where the port serves its reads, changes
nothing but the response, and its value is a function of the configuration and the storage contents alone. Where the port serves
a few more reads only, the count of those is all that changes beside; that count, `readLimit`, is the model's own input
(notes/assumptions/15.md, DESIGN CHOICE), no register of the spec's. -/
def Obligations.VerifyIsPure : Prop :=
  (∀ (a : Word) (s t : State), s.readLimit = none → t.readLimit = none → t.cfg = s.cfg → t.storage = s.storage →
    ∃ v : Word, exec (.verVerify a) s = .next { s with resp := s.resp ++ [⟨.ok, v⟩] } ∧
      exec (.verVerify a) t = .next { t with resp := t.resp ++ [⟨.ok, v⟩] }) ∧
  (∀ (a : Word) (s t : State), exec (.verVerify a) s = .next t →
    ∃ v : Word, t = { s with resp := s.resp ++ [⟨.ok, v⟩], readLimit := t.readLimit })

/-! ### Rules of the whole machine -/

/-- From a good state with ready ports every well-formed instruction completes: no operand and no draw ends a run. -/
def Obligations.EveryInstructionCompletes : Prop :=
  ∀ (i : Instr) (s : State), i.wellFormed = true → Inv s → PortsReady s → ∃ t, exec i s = .next t

/-- Storage is written by flushes only, and by a flush only in the page at `cur_addr` (R41, R97, R108): the frame of memory,
for every instruction. -/
def Obligations.OnlyFlushesWriteStorage : Prop :=
  ∀ (i : Instr) (s t : State), Inv s → exec i s = .next t →
    (∀ a, a < s.curAddr.toNat ∨ s.curAddr.toNat + s.cfg.pageSize ≤ a → storageByte t a = storageByte s a) ∧
    (i ≠ .xfrEot → i ≠ .fweFlush → (∀ b, i ≠ .xfrCrclo b) → t.storage = s.storage) ∧ t.locked = true

/-- The bytes each rule sends (R127): at most one, and which. -/
def Obligations.BytesSentByEachRule : Prop :=
  ∀ (i : Instr) (s t : State), exec i s = .next t →
    ∃ out, t.tx = s.tx ++ out ∧
      match i with
      | .xfrEot => out = [0x06]
      | .xfrBlkinv b => out = if (s.blk.toNat + b.toNat) % 256 = 0xFF then [] else [0x15]
      | .xfrCrclo _ => out = [] ∨ out = [0x06] ∨ out = [0x15]
      | .xfrProbe => out = if s.xstatus = .idle then [0x43] else []
      | _ => out = []

/-- The transition graph of `xstate` (R123), for the byte rules in the states that dispatch them. -/
def Obligations.ByteRulesFollowTheTransitionGraph : Prop :=
  ∀ (b : Byte) (s t : State), Inv s → exec (decodeByte s.xstate b) s = .next t →
    t.xstate =
      match s.xstate with
      | .waitStart => if b.toNat = 0x01 ∨ b.toNat = 0x02 then .waitBlockNum else .waitStart
      | .waitBlockNum => .waitBlockInv
      | .waitBlockInv => if (s.blk.toNat + b.toNat) % 256 = 0xFF then .waitData else .waitStart
      | .waitData => if s.pcount.toNat + 1 = plen s then .waitCrcHigh else .waitData
      | .waitCrcHigh => .waitCrcLow
      | .waitCrcLow => .waitStart

/-- `expected_blk` (R23): only the accept path of XFR_CRCLO advances it (the checksums agree, the block is the expected one,
FWE is initialised, and ACK is sent), and only a reset of the handle sets it to 1; no protocol fault and no duplicate changes
it. -/
def Obligations.ExpectedBlockAdvancesOnlyOnAccept : Prop :=
  ∀ (i : Instr) (s t : State), exec i s = .next t → t.expectedBlk ≠ s.expectedBlk →
    ((i = .xfrStart ∨ i = .xfrEot ∨ i = .xfrCan) ∧ t.expectedBlk = 1) ∨
    (∃ b, i = .xfrCrclo b ∧
      (checksummed b s).crcCalc = (checksummed b s).crcRx ∧ s.blk = s.expectedBlk ∧ s.fweValid = true ∧
      t.expectedBlk.toNat = (s.expectedBlk.toNat + 1) % 256 ∧ t.tx = s.tx ++ [0x06])

/-- `fwe_fault` is sticky (R16, R145): no instruction but FWE_INIT clears it, and `fwe_valid` is never cleared (R12). -/
def Obligations.FaultIsStickyUntilInit : Prop :=
  ∀ (i : Instr) (s t : State), exec i s = .next t →
    (s.fweFault = true → (∀ a, i ≠ .fweInit a) → t.fweFault = true) ∧
    (s.fweValid = true → t.fweValid = true) ∧
    (s.fweValid = false → t.fweValid = true → ∃ a, i = .fweInit a)

/-- The writers of `xstatus` (R20). -/
def Obligations.StatusHasFiveWriters : Prop :=
  ∀ (i : Instr) (s t : State), exec i s = .next t → t.xstatus ≠ s.xstatus →
    ((i = .xfrSoh ∨ i = .xfrStx) ∧ t.xstatus = .inProgress) ∨
    (i = .xfrEot ∧ (t.xstatus = .finished ∨ t.xstatus = .interrupted ∧ s.cfg.eotFlushFail = .interrupted)) ∨
    (i = .xfrCan ∧ t.xstatus = .interrupted) ∨ (i = .xfrStart ∧ t.xstatus = .idle)

/-- A well-formed packet in sequence, with room, takes `plen + 5` byte steps from `WaitStart` back to `WaitStart` (R123),
and is then staged and ACKed (R119). -/
def Obligations.PacketIsReceivedInItsBytes : Prop :=
  ∀ (s : State) (sel : Bool) (p rest : List Byte),
    let n := if sel then 1024 else 128
    Inv s → s.txLimit = none → s.xstate = .waitStart → s.fweValid = true → p.length = n →
    s.offset + n ≤ s.cfg.pageSize → s.hostPort = [] → s.sched = [] →
    s.rxPort = rxpkt sel s.expectedBlk p ++ rest →
    ∃ t, Host.Core.run Sys2Proof.core (n + 5) s = .next t ∧
      t.xstate = .waitStart ∧ t.xstatus = .inProgress ∧ t.rxPort = rest ∧ t.tx = s.tx ++ [0x06] ∧
      t.expectedBlk = s.expectedBlk + 1 ∧ t.offset = s.offset + n ∧
      t.mirror = s.mirror.take s.offset ++ p ++ s.mirror.drop (s.offset + n) ∧
      t.storage = s.storage ∧ t.curAddr = s.curAddr ∧ t.diag = s.diag

/-! ### CRC16 and the layout -/

/-- Leading zero bytes do not change the checksum (R85 (b)). -/
def Obligations.ChecksumIgnoresLeadingZeros : Prop :=
  ∀ (n : Nat) (s : List Byte), crc16 (List.replicate n 0 ++ s) = crc16 s

/-- Appending the checksum, high byte first, gives residue zero (R85 (c)). -/
def Obligations.ChecksumAppendedGivesZero : Prop :=
  ∀ s : List Byte, crc16 (s ++ [(crc16 s).extractLsb' 8 8, (crc16 s).extractLsb' 0 8]) = 0

/-- Every single-bit change, and every change within one byte, changes the checksum (R85 (d)). -/
def Obligations.ChecksumDetectsAChangedByte : Prop :=
  ∀ (s : List Byte) (i : Nat) (b : Byte) (h : i < s.length), s[i] ≠ b → crc16 (s.set i b) ≠ crc16 s

/-- The slots of a valid configuration (R7, R62): whole aligned pages, one after the other, inside the update region. -/
def Obligations.SlotsLieInTheUpdateRegion : Prop :=
  ∀ c : Config, configValid c →
    slotA c % c.pageSize = 0 ∧ slotB c % c.pageSize = 0 ∧ slotCapacity c % c.pageSize = 0 ∧
    slotA c = c.updateBase + c.pageSize ∧ slotB c = slotA c + slotCapacity c ∧
    slotB c + slotCapacity c ≤ c.updateBase + c.updateSize ∧
    c.updateSize < c.pageSize + 2 * slotCapacity c + 2 * c.pageSize ∧
    InStorage c (slotA c) (2 * slotCapacity c)
end

