-- ==== Sys2Proof/Laws/Crc.lean ====
section
/-! SUPPORT. The laws of the checksum register: it is linear and loses nothing (41_image_verifier.md R83). -/

namespace Sys2Proof.Machine

theorem crcFrom_append (xs ys : List Byte) : ∀ c : Half, crcFrom c (xs ++ ys) = crcFrom (crcFrom c xs) ys := by
  induction xs with
  | nil => intro c; rfl
  | cons x xs ih => intro c; exact ih _

theorem crc16_append (xs ys : List Byte) : crc16 (xs ++ ys) = crcFrom (crc16 xs) ys := crcFrom_append xs ys 0

/-- The shifts are linear. -/
theorem crcShift_xor (n : Nat) : ∀ a b : Half, crcShift n (a ^^^ b) = crcShift n a ^^^ crcShift n b := by
  induction n with
  | zero => intro a b; rfl
  | succ n ih =>
    intro a b
    have hs : (a ^^^ b) <<< 1 = a <<< 1 ^^^ b <<< 1 := by
      apply BitVec.eq_of_getLsbD_eq; intro i hi
      simp only [BitVec.getLsbD_xor, BitVec.getLsbD_shiftLeft, Bool.and_xor_distrib_left]
    have hm : (a ^^^ b).msb = (a.msb ^^ b.msb) := by simp
    have hx : ∀ x y p : Half, (x ^^^ p) ^^^ (y ^^^ p) = x ^^^ y := fun x y p => by
      rw [BitVec.xor_assoc, BitVec.xor_comm p, BitVec.xor_assoc, BitVec.xor_self, BitVec.xor_zero]
    unfold crcShift
    rw [hm, hs]
    cases a.msb <;> cases b.msb <;> simp only [Bool.xor_false, Bool.xor_true, Bool.not_false, Bool.not_true, if_true,
      Bool.false_eq_true, if_false]
    · exact ih _ _
    · rw [← ih, BitVec.xor_assoc]
    · rw [← ih, BitVec.xor_assoc, BitVec.xor_comm (b <<< 1), ← BitVec.xor_assoc]
    · rw [← ih, hx]

/-- No shift loses a register value. -/
theorem crcShift_eq_zero (n : Nat) : ∀ a : Half, crcShift n a = 0 → a = 0 := by
  induction n with
  | zero => intro a h; exact h
  | succ n ih =>
    intro a h
    unfold crcShift at h
    split at h
    · have h0 := ih _ h
      have : (a <<< 1 ^^^ (0x1021 : Half)).getLsbD 0 = (0 : Half).getLsbD 0 := by rw [h0]
      simp at this
    · next hm =>
      have h0 := ih _ h
      apply BitVec.eq_of_getLsbD_eq
      intro i hi
      by_cases h15 : i = 15
      · subst h15; simpa [BitVec.msb_eq_getLsbD_last] using hm
      · have : (a <<< 1).getLsbD (i + 1) = (0 : Half).getLsbD (i + 1) := by rw [h0]
        rw [BitVec.getLsbD_shiftLeft] at this
        simp at this
        simpa using this (by omega)

theorem crcShift_injective (n : Nat) {a b : Half} (h : crcShift n a = crcShift n b) : a = b := by
  have h0 : crcShift n (a ^^^ b) = 0 := by rw [crcShift_xor, h, BitVec.xor_self]; rfl
  have h1 := crcShift_eq_zero n _ h0
  have : a ^^^ b ^^^ b = 0 ^^^ b := by rw [h1]
  simpa [BitVec.xor_assoc] using this

/-- Registers that differ stay different over equal bytes. -/
theorem crcFrom_injective (s : List Byte) : ∀ {c d : Half}, crcFrom c s = crcFrom d s → c = d := by
  induction s with
  | nil => intro c d h; exact h
  | cons b s ih =>
    intro c d h
    have h1 := crcShift_injective 8 (ih h)
    have : c ^^^ (b ++ 0#8 : BitVec 16) ^^^ (b ++ 0#8) = d ^^^ (b ++ 0#8 : BitVec 16) ^^^ (b ++ 0#8) := by rw [h1]
    simpa [BitVec.xor_assoc] using this

/-- Bytes that differ leave the register different. -/
theorem crcByte_byte_injective {c : Half} {a b : Byte} (h : crcByte c a = crcByte c b) : a = b := by
  have h1 := crcShift_injective 8 h
  have h2 : c ^^^ (c ^^^ (a ++ 0#8 : BitVec 16)) = c ^^^ (c ^^^ (b ++ 0#8)) := by rw [h1]
  rw [← BitVec.xor_assoc, ← BitVec.xor_assoc, BitVec.xor_self, BitVec.zero_xor, BitVec.zero_xor] at h2
  have h3 := congrArg (fun x : BitVec 16 => x.extractLsb' 8 8) h2
  have h4 : ∀ x : Byte, (x ++ 0#8 : BitVec 16).extractLsb' 8 8 = x := fun x => by
    apply BitVec.eq_of_getLsbD_eq
    intro i hi
    rw [BitVec.getLsbD_extractLsb', BitVec.getLsbD_append]
    simp [hi]
  simpa only [h4] using h3

end Sys2Proof.Machine
end

