-- ==== Sys2Proof/Laws/Decode.lean ====
section
/-! SUPPORT. The laws of the encodings: the two fields of an RXB event, the codes of `xstate`, and the little-endian
operands. -/

namespace Sys2Proof

theorem rxEvent_toNat (c : BitVec 3) (b : Byte) : (rxEvent c b).toNat = 256 * c.toNat + b.toNat := by
  unfold rxEvent
  rw [BitVec.toNat_append, Nat.shiftLeft_eq, Nat.mul_comm]
  exact (Nat.two_pow_add_eq_or_of_lt b.isLt _).symm

/-- The state field of an event (R64). -/
@[simp] theorem rxEvent_state (c : BitVec 3) (b : Byte) : (rxEvent c b).extractLsb' 8 3 = c := by
  apply BitVec.eq_of_toNat_eq
  rw [BitVec.extractLsb'_toNat, rxEvent_toNat, Nat.shiftRight_eq_div_pow]
  have := b.isLt
  have := c.isLt
  omega

/-- The byte field of an event (R64). -/
@[simp] theorem rxEvent_byte (c : BitVec 3) (b : Byte) : (rxEvent c b).extractLsb' 0 8 = b := by
  apply BitVec.eq_of_toNat_eq
  rw [BitVec.extractLsb'_toNat, rxEvent_toNat, Nat.shiftRight_eq_div_pow]
  have := b.isLt
  omega

/-- An event is its two fields. -/
theorem rxEvent_eta (e : BitVec 11) : rxEvent (e.extractLsb' 8 3) (e.extractLsb' 0 8) = e := by
  apply BitVec.eq_of_toNat_eq
  rw [rxEvent_toNat, BitVec.extractLsb'_toNat, BitVec.extractLsb'_toNat, Nat.shiftRight_eq_div_pow,
    Nat.shiftRight_eq_div_pow]
  have := e.isLt
  omega

@[simp] theorem ofCode_code (x : XState) : XState.ofCode x.code = some x := by cases x <;> rfl

theorem code_of_ofCode {c : BitVec 3} {x : XState} : XState.ofCode c = some x → x.code = c := by
  revert x; revert c; decide

theorem ofCode_eq_none : ∀ c : BitVec 3, XState.ofCode c = none ↔ 6 ≤ c.toNat := by decide

/-- The event that a state and a byte form decodes to their rule (R67). -/
@[simp] theorem decodeEvent_rxEvent (x : XState) (b : Byte) :
    decodeEvent (rxEvent x.code b) = .ok (decodeByte x b) := by
  simp [decodeEvent]

@[simp] theorem leBytes_length : ∀ n v : Nat, (leBytes n v).length = n
  | 0, _ => rfl
  | n + 1, v => by simp [leBytes, leBytes_length n]

theorem leNat_leBytes : ∀ n v : Nat, v < 256 ^ n → leNat (leBytes n v) = v
  | 0, v, h => by simp at h; simp [leBytes, leNat, h]
  | n + 1, v, h => by
    simp only [leBytes, leNat, BitVec.toNat_ofNat]
    rw [leNat_leBytes n (v / 256) (by rw [Nat.pow_succ] at h; omega)]
    omega

/-- Reading back the bytes of a number (R73). -/
theorem takeLe_leBytes (n v : Nat) (rest : List Byte) (h : v < 256 ^ n) :
    takeLe n (leBytes n v ++ rest) = .ok (v, rest) := by
  simp [takeLe, leNat_leBytes n v h]

end Sys2Proof
end

