-- ==== Sys2Proof/Laws/Memory.lean ====
section
/-! SUPPORT. The laws of the storage contents: what a read gives after a write, and that every operation keeps the canonical
form, which makes equal contents equal data. -/

namespace Sys2Proof.Machine

theorem Memory_wf_cons {d : Byte} {k : Nat} {v : Byte} {m : Memory} :
    Memory.wf d ((k, v) :: m) = true ↔ v ≠ d ∧ (∀ c ∈ m, k < c.1) ∧ Memory.wf d m = true := by
  simp [Memory.wf, and_assoc]

/-- An address below every listed one reads as an unlisted address. -/
theorem Memory_read_of_lt {d : Byte} {m : Memory} {a : Nat} (h : ∀ c ∈ m, a < c.1) : Memory.read d m a = d := by
  induction m with
  | nil => rfl
  | cons c m ih =>
    obtain ⟨k, v⟩ := c
    have hk : a < k := h (k, v) (by simp)
    simp only [Memory.read, if_neg (show k ≠ a by omega)]
    exact ih fun c hc => h c (by simp [hc])

theorem Memory_read_write_other {d : Byte} {m : Memory} {a x : Nat} (v : Byte) (h : x ≠ a) :
    Memory.read d (Memory.write d m a v) x = Memory.read d m x := by
  induction m with
  | nil => unfold Memory.write; split <;> simp [Memory.read, Ne.symm h]
  | cons c m ih =>
    obtain ⟨k, w⟩ := c
    unfold Memory.write
    split
    · split <;> simp [Memory.read, Ne.symm h]
    · split
      · next _ hak =>
        subst hak
        split <;> simp [Memory.read, Ne.symm h]
      · simp [Memory.read, ih]

theorem Memory_read_write_same {d : Byte} {m : Memory} (hm : Memory.wf d m = true) (a : Nat) (v : Byte) :
    Memory.read d (Memory.write d m a v) a = v := by
  induction m with
  | nil => unfold Memory.write; split <;> simp_all [Memory.read]
  | cons c m ih =>
    obtain ⟨k, w⟩ := c
    obtain ⟨-, hk, hm⟩ := Memory_wf_cons.1 hm
    unfold Memory.write
    split
    · next hak =>
      split
      · next hv =>
        subst hv
        exact Memory_read_of_lt fun c hc => by
          rcases List.mem_cons.1 hc with rfl | hc
          · exact hak
          · exact Nat.lt_trans hak (hk c hc)
      · simp [Memory.read]
    · split
      · next hak =>
        subst hak
        split
        · next hv => subst hv; exact Memory_read_of_lt hk
        · simp [Memory.read]
      · next hne => simp [Memory.read, Ne.symm hne, ih hm]

theorem Memory_read_write {d : Byte} {m : Memory} (hm : Memory.wf d m = true) (a x : Nat) (v : Byte) :
    Memory.read d (Memory.write d m a v) x = if x = a then v else Memory.read d m x := by
  split
  · next h => subst h; exact Memory_read_write_same hm x v
  · next h => exact Memory_read_write_other v h

/-- Every entry after a write is the one written or an old one. -/
theorem Memory_mem_write {d : Byte} {m : Memory} {a : Nat} {v : Byte} {c : Host.Cell}
    (h : c ∈ Memory.write d m a v) : c = (a, v) ∨ c ∈ m := by
  induction m with
  | nil =>
    unfold Memory.write at h
    split at h <;> simp_all
  | cons e m ih =>
    obtain ⟨k, w⟩ := e
    unfold Memory.write at h
    split at h
    · split at h <;> simp_all
    · split at h
      · split at h
        · exact .inr (List.mem_cons_of_mem _ h)
        · next hak _ =>
          rcases List.mem_cons.1 h with rfl | h
          · exact .inl rfl
          · exact .inr (List.mem_cons_of_mem _ h)
      · rcases List.mem_cons.1 h with rfl | h
        · simp
        · rcases ih h with h | h <;> simp [h]

theorem Memory_write_wf {d : Byte} {m : Memory} (hm : Memory.wf d m = true) (a : Nat) (v : Byte) :
    Memory.wf d (Memory.write d m a v) = true := by
  induction m with
  | nil =>
    unfold Memory.write
    split
    · rfl
    · next h => simp [Memory.wf, h]
  | cons e m ih =>
    obtain ⟨k, w⟩ := e
    have hm' := hm
    obtain ⟨hw, hk, hm⟩ := Memory_wf_cons.1 hm
    unfold Memory.write
    split
    · next hak =>
      split
      · exact hm'
      · next hv =>
        refine Memory_wf_cons.2 ⟨hv, fun c hc => ?_, hm'⟩
        rcases List.mem_cons.1 hc with rfl | hc
        · exact hak
        · exact Nat.lt_trans hak (hk c hc)
    · split
      · next hak =>
        split
        · exact hm
        · next hv => exact Memory_wf_cons.2 ⟨hv, fun c hc => hak ▸ hk c hc, hm⟩
      · refine Memory_wf_cons.2 ⟨hw, fun c hc => ?_, ih hm⟩
        rcases Memory_mem_write hc with rfl | hc
        · simp only; omega
        · exact hk c hc

theorem Memory_writeBytes_wf {d : Byte} (bs : List Byte) :
    ∀ {m : Memory} (a : Nat), Memory.wf d m = true → Memory.wf d (Memory.writeBytes d m a bs) = true := by
  induction bs with
  | nil => intro m a h; exact h
  | cons b bs ih => intro m a h; exact ih (a + 1) (Memory_write_wf h a b)

/-- The byte at `x` after the bytes of `bs` were written from `a` up. -/
theorem Memory_read_writeBytes {d : Byte} (bs : List Byte) :
    ∀ {m : Memory} (a x : Nat), Memory.wf d m = true →
      Memory.read d (Memory.writeBytes d m a bs) x =
        if a ≤ x ∧ x < a + bs.length then bs.getD (x - a) 0 else Memory.read d m x := by
  induction bs with
  | nil => intro m a x _; simp [Memory.writeBytes]
  | cons b bs ih =>
    intro m a x hm
    simp only [Memory.writeBytes, ih (a + 1) x (Memory_write_wf hm a b), Memory_read_write hm, List.length_cons]
    by_cases h1 : x = a
    · subst h1; simp
    · by_cases h2 : a ≤ x ∧ x < a + (bs.length + 1)
      · have h3 : a + 1 ≤ x ∧ x < a + 1 + bs.length := by omega
        rw [if_pos h2, if_pos h3, show x - a = (x - (a + 1)) + 1 by omega]
        simp
      · have h3 : ¬ (a + 1 ≤ x ∧ x < a + 1 + bs.length) := by omega
        rw [if_neg h2, if_neg h3, if_neg h1]

theorem Memory_read_writeBytes_outside {d : Byte} {m : Memory} (bs : List Byte) (a x : Nat)
    (hm : Memory.wf d m = true) (h : x < a ∨ a + bs.length ≤ x) :
    Memory.read d (Memory.writeBytes d m a bs) x = Memory.read d m x := by
  rw [Memory_read_writeBytes bs a x hm, if_neg (by omega)]

theorem Memory_mem_writeBytes {d : Byte} (bs : List Byte) :
    ∀ {m : Memory} {a : Nat} {c : Host.Cell}, c ∈ Memory.writeBytes d m a bs →
      (a ≤ c.1 ∧ c.1 < a + bs.length) ∨ c ∈ m := by
  induction bs with
  | nil => intro m a c h; exact .inr h
  | cons b bs ih =>
    intro m a c h
    rcases ih h with h | h
    · left; simp only [List.length_cons]; omega
    · rcases Memory_mem_write h with rfl | h
      · left; simp
      · exact .inr h

theorem Memory_writeBytes_append {d : Byte} (xs : List Byte) :
    ∀ (ys : List Byte) (m : Memory) (a : Nat),
      Memory.writeBytes d m a (xs ++ ys) =
        Memory.writeBytes d (Memory.writeBytes d m a xs) (a + xs.length) ys := by
  induction xs with
  | nil => intro ys m a; simp [Memory.writeBytes]
  | cons x xs ih =>
    intro ys m a
    simp only [List.cons_append, Memory.writeBytes, ih, List.length_cons]
    rw [show a + 1 + xs.length = a + (xs.length + 1) by omega]

@[simp] theorem Memory_readBytes_length (d : Byte) (m : Memory) (a n : Nat) :
    (Memory.readBytes d m a n).length = n := by
  simp [Memory.readBytes]

@[simp] theorem Memory_readBytes_getElem (d : Byte) (m : Memory) (a n i : Nat) (h : i < (Memory.readBytes d m a n).length) :
    (Memory.readBytes d m a n)[i] = Memory.read d m (a + i) := by
  simp [Memory.readBytes]

/-- Contents in canonical form that read alike are equal data. -/
theorem Memory_ext {d : Byte} {m n : Memory} (hm : Memory.wf d m = true) (hn : Memory.wf d n = true)
    (h : ∀ a, Memory.read d m a = Memory.read d n a) : m = n := by
  induction m generalizing n with
  | nil =>
    cases n with
    | nil => rfl
    | cons e n =>
      obtain ⟨k, v⟩ := e
      have := h k
      simp [Memory.read] at this
      exact absurd this.symm (Memory_wf_cons.1 hn).1
  | cons e m ih =>
    obtain ⟨k, v⟩ := e
    obtain ⟨hv, hk, hm⟩ := Memory_wf_cons.1 hm
    cases n with
    | nil =>
      have := h k
      simp [Memory.read] at this
      exact absurd this hv
    | cons f n =>
      obtain ⟨l, w⟩ := f
      obtain ⟨hw, hl, hn'⟩ := Memory_wf_cons.1 hn
      have hkl : k = l := by
        rcases Nat.lt_trichotomy k l with hlt | heq | hgt
        · have := h k
          rw [Memory.read, if_pos rfl, Memory.read, if_neg (by omega),
            Memory_read_of_lt fun c hc => Nat.lt_trans hlt (hl c hc)] at this
          exact absurd this hv
        · exact heq
        · have := h l
          rw [Memory.read, if_neg (by omega), Memory_read_of_lt fun c hc => Nat.lt_trans hgt (hk c hc), Memory.read,
            if_pos rfl] at this
          exact absurd this.symm hw
      subst hkl
      have hvw : v = w := by simpa [Memory.read] using h k
      subst hvw
      congr 1
      refine ih hm hn' fun a => ?_
      by_cases ha : k = a
      · subst ha; rw [Memory_read_of_lt hk, Memory_read_of_lt hl]
      · simpa [Memory.read, ha] using h a

/-! ### Through the state -/

@[simp] theorem storageBytes_length (s : State) (a n : Nat) : (storageBytes s a n).length = n := by
  simp [storageBytes]

theorem storageBytes_getElem (s : State) (a n i : Nat) (h : i < (storageBytes s a n).length) :
    (storageBytes s a n)[i] = storageByte s (a + i) := by
  simp [storageBytes, storageByte]

/-- A range of storage reads as a list exactly where it reads so byte by byte. -/
theorem storageBytes_eq_iff (s : State) (a n : Nat) (bs : List Byte) :
    storageBytes s a n = bs ↔ bs.length = n ∧ ∀ i, (h : i < bs.length) → storageByte s (a + i) = bs[i] := by
  constructor
  · rintro rfl
    exact ⟨by simp, fun i h => (storageBytes_getElem s a n i h).symm⟩
  · rintro ⟨hl, h⟩
    refine List.ext_getElem (by simp [hl]) fun i h1 h2 => ?_
    rw [storageBytes_getElem, h i h2]

end Sys2Proof.Machine
end

