-- ==== Sys2Proof/Laws/State.lean ====
section
/-! SUPPORT. One lemma per field per update of the state that the meanings share, so that no later proof unfolds a record
update. -/

namespace Sys2Proof.Machine

/-! ### `logDiag` -/

@[simp] theorem logDiag_cfg (d : Diag) (s : State) : (logDiag d s).cfg = s.cfg := rfl
@[simp] theorem logDiag_fweValid (d : Diag) (s : State) : (logDiag d s).fweValid = s.fweValid := rfl
@[simp] theorem logDiag_curAddr (d : Diag) (s : State) : (logDiag d s).curAddr = s.curAddr := rfl
@[simp] theorem logDiag_offset (d : Diag) (s : State) : (logDiag d s).offset = s.offset := rfl
@[simp] theorem logDiag_mirror (d : Diag) (s : State) : (logDiag d s).mirror = s.mirror := rfl
@[simp] theorem logDiag_fweFault (d : Diag) (s : State) : (logDiag d s).fweFault = s.fweFault := rfl
@[simp] theorem logDiag_fweCause (d : Diag) (s : State) : (logDiag d s).fweCause = s.fweCause := rfl
@[simp] theorem logDiag_xstate (d : Diag) (s : State) : (logDiag d s).xstate = s.xstate := rfl
@[simp] theorem logDiag_xstatus (d : Diag) (s : State) : (logDiag d s).xstatus = s.xstatus := rfl
@[simp] theorem logDiag_blk (d : Diag) (s : State) : (logDiag d s).blk = s.blk := rfl
@[simp] theorem logDiag_blkInv (d : Diag) (s : State) : (logDiag d s).blkInv = s.blkInv := rfl
@[simp] theorem logDiag_expectedBlk (d : Diag) (s : State) : (logDiag d s).expectedBlk = s.expectedBlk := rfl
@[simp] theorem logDiag_plenSel (d : Diag) (s : State) : (logDiag d s).plenSel = s.plenSel := rfl
@[simp] theorem logDiag_pcount (d : Diag) (s : State) : (logDiag d s).pcount = s.pcount := rfl
@[simp] theorem logDiag_pbuf (d : Diag) (s : State) : (logDiag d s).pbuf = s.pbuf := rfl
@[simp] theorem logDiag_crcRx (d : Diag) (s : State) : (logDiag d s).crcRx = s.crcRx := rfl
@[simp] theorem logDiag_crcCalc (d : Diag) (s : State) : (logDiag d s).crcCalc = s.crcCalc := rfl
@[simp] theorem logDiag_storage (d : Diag) (s : State) : (logDiag d s).storage = s.storage := rfl
@[simp] theorem logDiag_locked (d : Diag) (s : State) : (logDiag d s).locked = s.locked := rfl
@[simp] theorem logDiag_tx (d : Diag) (s : State) : (logDiag d s).tx = s.tx := rfl
@[simp] theorem logDiag_diag (d : Diag) (s : State) : (logDiag d s).diag = s.diag ++ [d] := rfl
@[simp] theorem logDiag_resp (d : Diag) (s : State) : (logDiag d s).resp = s.resp := rfl
@[simp] theorem logDiag_rxPort (d : Diag) (s : State) : (logDiag d s).rxPort = s.rxPort := rfl
@[simp] theorem logDiag_hostPort (d : Diag) (s : State) : (logDiag d s).hostPort = s.hostPort := rfl
@[simp] theorem logDiag_sched (d : Diag) (s : State) : (logDiag d s).sched = s.sched := rfl
@[simp] theorem logDiag_script (d : Diag) (s : State) : (logDiag d s).script = s.script := rfl
@[simp] theorem logDiag_tail (d : Diag) (s : State) : (logDiag d s).tail = s.tail := rfl
@[simp] theorem logDiag_drawCount (d : Diag) (s : State) : (logDiag d s).drawCount = s.drawCount := rfl
@[simp] theorem logDiag_txLimit (d : Diag) (s : State) : (logDiag d s).txLimit = s.txLimit := rfl
@[simp] theorem logDiag_readLimit (d : Diag) (s : State) : (logDiag d s).readLimit = s.readLimit := rfl

/-! ### `respond` -/

@[simp] theorem respond_cfg (c : RespCode) (v : Word) (s : State) : (respond c v s).cfg = s.cfg := rfl
@[simp] theorem respond_fweValid (c : RespCode) (v : Word) (s : State) : (respond c v s).fweValid = s.fweValid := rfl
@[simp] theorem respond_curAddr (c : RespCode) (v : Word) (s : State) : (respond c v s).curAddr = s.curAddr := rfl
@[simp] theorem respond_offset (c : RespCode) (v : Word) (s : State) : (respond c v s).offset = s.offset := rfl
@[simp] theorem respond_mirror (c : RespCode) (v : Word) (s : State) : (respond c v s).mirror = s.mirror := rfl
@[simp] theorem respond_fweFault (c : RespCode) (v : Word) (s : State) : (respond c v s).fweFault = s.fweFault := rfl
@[simp] theorem respond_fweCause (c : RespCode) (v : Word) (s : State) : (respond c v s).fweCause = s.fweCause := rfl
@[simp] theorem respond_xstate (c : RespCode) (v : Word) (s : State) : (respond c v s).xstate = s.xstate := rfl
@[simp] theorem respond_xstatus (c : RespCode) (v : Word) (s : State) : (respond c v s).xstatus = s.xstatus := rfl
@[simp] theorem respond_blk (c : RespCode) (v : Word) (s : State) : (respond c v s).blk = s.blk := rfl
@[simp] theorem respond_blkInv (c : RespCode) (v : Word) (s : State) : (respond c v s).blkInv = s.blkInv := rfl
@[simp] theorem respond_expectedBlk (c : RespCode) (v : Word) (s : State) : (respond c v s).expectedBlk = s.expectedBlk := rfl
@[simp] theorem respond_plenSel (c : RespCode) (v : Word) (s : State) : (respond c v s).plenSel = s.plenSel := rfl
@[simp] theorem respond_pcount (c : RespCode) (v : Word) (s : State) : (respond c v s).pcount = s.pcount := rfl
@[simp] theorem respond_pbuf (c : RespCode) (v : Word) (s : State) : (respond c v s).pbuf = s.pbuf := rfl
@[simp] theorem respond_crcRx (c : RespCode) (v : Word) (s : State) : (respond c v s).crcRx = s.crcRx := rfl
@[simp] theorem respond_crcCalc (c : RespCode) (v : Word) (s : State) : (respond c v s).crcCalc = s.crcCalc := rfl
@[simp] theorem respond_storage (c : RespCode) (v : Word) (s : State) : (respond c v s).storage = s.storage := rfl
@[simp] theorem respond_locked (c : RespCode) (v : Word) (s : State) : (respond c v s).locked = s.locked := rfl
@[simp] theorem respond_tx (c : RespCode) (v : Word) (s : State) : (respond c v s).tx = s.tx := rfl
@[simp] theorem respond_diag (c : RespCode) (v : Word) (s : State) : (respond c v s).diag = s.diag := rfl
@[simp] theorem respond_resp (c : RespCode) (v : Word) (s : State) : (respond c v s).resp = s.resp ++ [⟨c, v⟩] := rfl
@[simp] theorem respond_rxPort (c : RespCode) (v : Word) (s : State) : (respond c v s).rxPort = s.rxPort := rfl
@[simp] theorem respond_hostPort (c : RespCode) (v : Word) (s : State) : (respond c v s).hostPort = s.hostPort := rfl
@[simp] theorem respond_sched (c : RespCode) (v : Word) (s : State) : (respond c v s).sched = s.sched := rfl
@[simp] theorem respond_script (c : RespCode) (v : Word) (s : State) : (respond c v s).script = s.script := rfl
@[simp] theorem respond_tail (c : RespCode) (v : Word) (s : State) : (respond c v s).tail = s.tail := rfl
@[simp] theorem respond_drawCount (c : RespCode) (v : Word) (s : State) : (respond c v s).drawCount = s.drawCount := rfl
@[simp] theorem respond_txLimit (c : RespCode) (v : Word) (s : State) : (respond c v s).txLimit = s.txLimit := rfl
@[simp] theorem respond_readLimit (c : RespCode) (v : Word) (s : State) : (respond c v s).readLimit = s.readLimit := rfl

/-! ### `refuseCommand` -/

@[simp] theorem refuseCommand_cfg (c : RespCode) (s : State) : (refuseCommand c s).cfg = s.cfg := rfl
@[simp] theorem refuseCommand_fweValid (c : RespCode) (s : State) : (refuseCommand c s).fweValid = s.fweValid := rfl
@[simp] theorem refuseCommand_curAddr (c : RespCode) (s : State) : (refuseCommand c s).curAddr = s.curAddr := rfl
@[simp] theorem refuseCommand_offset (c : RespCode) (s : State) : (refuseCommand c s).offset = s.offset := rfl
@[simp] theorem refuseCommand_mirror (c : RespCode) (s : State) : (refuseCommand c s).mirror = s.mirror := rfl
@[simp] theorem refuseCommand_fweFault (c : RespCode) (s : State) : (refuseCommand c s).fweFault = s.fweFault := rfl
@[simp] theorem refuseCommand_fweCause (c : RespCode) (s : State) : (refuseCommand c s).fweCause = s.fweCause := rfl
@[simp] theorem refuseCommand_xstate (c : RespCode) (s : State) : (refuseCommand c s).xstate = s.xstate := rfl
@[simp] theorem refuseCommand_xstatus (c : RespCode) (s : State) : (refuseCommand c s).xstatus = s.xstatus := rfl
@[simp] theorem refuseCommand_blk (c : RespCode) (s : State) : (refuseCommand c s).blk = s.blk := rfl
@[simp] theorem refuseCommand_blkInv (c : RespCode) (s : State) : (refuseCommand c s).blkInv = s.blkInv := rfl
@[simp] theorem refuseCommand_expectedBlk (c : RespCode) (s : State) : (refuseCommand c s).expectedBlk = s.expectedBlk := rfl
@[simp] theorem refuseCommand_plenSel (c : RespCode) (s : State) : (refuseCommand c s).plenSel = s.plenSel := rfl
@[simp] theorem refuseCommand_pcount (c : RespCode) (s : State) : (refuseCommand c s).pcount = s.pcount := rfl
@[simp] theorem refuseCommand_pbuf (c : RespCode) (s : State) : (refuseCommand c s).pbuf = s.pbuf := rfl
@[simp] theorem refuseCommand_crcRx (c : RespCode) (s : State) : (refuseCommand c s).crcRx = s.crcRx := rfl
@[simp] theorem refuseCommand_crcCalc (c : RespCode) (s : State) : (refuseCommand c s).crcCalc = s.crcCalc := rfl
@[simp] theorem refuseCommand_storage (c : RespCode) (s : State) : (refuseCommand c s).storage = s.storage := rfl
@[simp] theorem refuseCommand_locked (c : RespCode) (s : State) : (refuseCommand c s).locked = s.locked := rfl
@[simp] theorem refuseCommand_tx (c : RespCode) (s : State) : (refuseCommand c s).tx = s.tx := rfl
@[simp] theorem refuseCommand_diag (c : RespCode) (s : State) : (refuseCommand c s).diag = s.diag := rfl
@[simp] theorem refuseCommand_resp (c : RespCode) (s : State) : (refuseCommand c s).resp = s.resp ++ [⟨c, 0⟩] := rfl
@[simp] theorem refuseCommand_rxPort (c : RespCode) (s : State) : (refuseCommand c s).rxPort = s.rxPort := rfl
@[simp] theorem refuseCommand_hostPort (c : RespCode) (s : State) : (refuseCommand c s).hostPort = s.hostPort := rfl
@[simp] theorem refuseCommand_sched (c : RespCode) (s : State) : (refuseCommand c s).sched = s.sched := rfl
@[simp] theorem refuseCommand_script (c : RespCode) (s : State) : (refuseCommand c s).script = s.script := rfl
@[simp] theorem refuseCommand_tail (c : RespCode) (s : State) : (refuseCommand c s).tail = s.tail := rfl
@[simp] theorem refuseCommand_drawCount (c : RespCode) (s : State) : (refuseCommand c s).drawCount = s.drawCount := rfl
@[simp] theorem refuseCommand_txLimit (c : RespCode) (s : State) : (refuseCommand c s).txLimit = s.txLimit := rfl
@[simp] theorem refuseCommand_readLimit (c : RespCode) (s : State) : (refuseCommand c s).readLimit = s.readLimit := rfl

/-! ### `setFault` -/

@[simp] theorem setFault_cfg (c : FaultCause) (s : State) : (setFault c s).cfg = s.cfg := rfl
@[simp] theorem setFault_fweValid (c : FaultCause) (s : State) : (setFault c s).fweValid = s.fweValid := rfl
@[simp] theorem setFault_curAddr (c : FaultCause) (s : State) : (setFault c s).curAddr = s.curAddr := rfl
@[simp] theorem setFault_offset (c : FaultCause) (s : State) : (setFault c s).offset = s.offset := rfl
@[simp] theorem setFault_mirror (c : FaultCause) (s : State) : (setFault c s).mirror = s.mirror := rfl
@[simp] theorem setFault_fweFault (c : FaultCause) (s : State) : (setFault c s).fweFault = true := rfl
@[simp] theorem setFault_fweCause (c : FaultCause) (s : State) : (setFault c s).fweCause = c := rfl
@[simp] theorem setFault_xstate (c : FaultCause) (s : State) : (setFault c s).xstate = s.xstate := rfl
@[simp] theorem setFault_xstatus (c : FaultCause) (s : State) : (setFault c s).xstatus = s.xstatus := rfl
@[simp] theorem setFault_blk (c : FaultCause) (s : State) : (setFault c s).blk = s.blk := rfl
@[simp] theorem setFault_blkInv (c : FaultCause) (s : State) : (setFault c s).blkInv = s.blkInv := rfl
@[simp] theorem setFault_expectedBlk (c : FaultCause) (s : State) : (setFault c s).expectedBlk = s.expectedBlk := rfl
@[simp] theorem setFault_plenSel (c : FaultCause) (s : State) : (setFault c s).plenSel = s.plenSel := rfl
@[simp] theorem setFault_pcount (c : FaultCause) (s : State) : (setFault c s).pcount = s.pcount := rfl
@[simp] theorem setFault_pbuf (c : FaultCause) (s : State) : (setFault c s).pbuf = s.pbuf := rfl
@[simp] theorem setFault_crcRx (c : FaultCause) (s : State) : (setFault c s).crcRx = s.crcRx := rfl
@[simp] theorem setFault_crcCalc (c : FaultCause) (s : State) : (setFault c s).crcCalc = s.crcCalc := rfl
@[simp] theorem setFault_storage (c : FaultCause) (s : State) : (setFault c s).storage = s.storage := rfl
@[simp] theorem setFault_locked (c : FaultCause) (s : State) : (setFault c s).locked = s.locked := rfl
@[simp] theorem setFault_tx (c : FaultCause) (s : State) : (setFault c s).tx = s.tx := rfl
@[simp] theorem setFault_diag (c : FaultCause) (s : State) : (setFault c s).diag = s.diag := rfl
@[simp] theorem setFault_resp (c : FaultCause) (s : State) : (setFault c s).resp = s.resp := rfl
@[simp] theorem setFault_rxPort (c : FaultCause) (s : State) : (setFault c s).rxPort = s.rxPort := rfl
@[simp] theorem setFault_hostPort (c : FaultCause) (s : State) : (setFault c s).hostPort = s.hostPort := rfl
@[simp] theorem setFault_sched (c : FaultCause) (s : State) : (setFault c s).sched = s.sched := rfl
@[simp] theorem setFault_script (c : FaultCause) (s : State) : (setFault c s).script = s.script := rfl
@[simp] theorem setFault_tail (c : FaultCause) (s : State) : (setFault c s).tail = s.tail := rfl
@[simp] theorem setFault_drawCount (c : FaultCause) (s : State) : (setFault c s).drawCount = s.drawCount := rfl
@[simp] theorem setFault_txLimit (c : FaultCause) (s : State) : (setFault c s).txLimit = s.txLimit := rfl
@[simp] theorem setFault_readLimit (c : FaultCause) (s : State) : (setFault c s).readLimit = s.readLimit := rfl

/-! ### `clearFault` -/

@[simp] theorem clearFault_cfg (s : State) : (clearFault s).cfg = s.cfg := rfl
@[simp] theorem clearFault_fweValid (s : State) : (clearFault s).fweValid = s.fweValid := rfl
@[simp] theorem clearFault_curAddr (s : State) : (clearFault s).curAddr = s.curAddr := rfl
@[simp] theorem clearFault_offset (s : State) : (clearFault s).offset = s.offset := rfl
@[simp] theorem clearFault_mirror (s : State) : (clearFault s).mirror = s.mirror := rfl
@[simp] theorem clearFault_fweFault (s : State) : (clearFault s).fweFault = false := rfl
@[simp] theorem clearFault_fweCause (s : State) : (clearFault s).fweCause = .none := rfl
@[simp] theorem clearFault_xstate (s : State) : (clearFault s).xstate = s.xstate := rfl
@[simp] theorem clearFault_xstatus (s : State) : (clearFault s).xstatus = s.xstatus := rfl
@[simp] theorem clearFault_blk (s : State) : (clearFault s).blk = s.blk := rfl
@[simp] theorem clearFault_blkInv (s : State) : (clearFault s).blkInv = s.blkInv := rfl
@[simp] theorem clearFault_expectedBlk (s : State) : (clearFault s).expectedBlk = s.expectedBlk := rfl
@[simp] theorem clearFault_plenSel (s : State) : (clearFault s).plenSel = s.plenSel := rfl
@[simp] theorem clearFault_pcount (s : State) : (clearFault s).pcount = s.pcount := rfl
@[simp] theorem clearFault_pbuf (s : State) : (clearFault s).pbuf = s.pbuf := rfl
@[simp] theorem clearFault_crcRx (s : State) : (clearFault s).crcRx = s.crcRx := rfl
@[simp] theorem clearFault_crcCalc (s : State) : (clearFault s).crcCalc = s.crcCalc := rfl
@[simp] theorem clearFault_storage (s : State) : (clearFault s).storage = s.storage := rfl
@[simp] theorem clearFault_locked (s : State) : (clearFault s).locked = s.locked := rfl
@[simp] theorem clearFault_tx (s : State) : (clearFault s).tx = s.tx := rfl
@[simp] theorem clearFault_diag (s : State) : (clearFault s).diag = s.diag := rfl
@[simp] theorem clearFault_resp (s : State) : (clearFault s).resp = s.resp := rfl
@[simp] theorem clearFault_rxPort (s : State) : (clearFault s).rxPort = s.rxPort := rfl
@[simp] theorem clearFault_hostPort (s : State) : (clearFault s).hostPort = s.hostPort := rfl
@[simp] theorem clearFault_sched (s : State) : (clearFault s).sched = s.sched := rfl
@[simp] theorem clearFault_script (s : State) : (clearFault s).script = s.script := rfl
@[simp] theorem clearFault_tail (s : State) : (clearFault s).tail = s.tail := rfl
@[simp] theorem clearFault_drawCount (s : State) : (clearFault s).drawCount = s.drawCount := rfl
@[simp] theorem clearFault_txLimit (s : State) : (clearFault s).txLimit = s.txLimit := rfl
@[simp] theorem clearFault_readLimit (s : State) : (clearFault s).readLimit = s.readLimit := rfl

/-! ### `storageFault` -/

@[simp] theorem storageFault_cfg (c : FaultCause) (s : State) : (storageFault c s).cfg = s.cfg := rfl
@[simp] theorem storageFault_fweValid (c : FaultCause) (s : State) : (storageFault c s).fweValid = s.fweValid := rfl
@[simp] theorem storageFault_curAddr (c : FaultCause) (s : State) : (storageFault c s).curAddr = s.curAddr := rfl
@[simp] theorem storageFault_offset (c : FaultCause) (s : State) : (storageFault c s).offset = s.offset := rfl
@[simp] theorem storageFault_mirror (c : FaultCause) (s : State) : (storageFault c s).mirror = s.mirror := rfl
@[simp] theorem storageFault_fweFault (c : FaultCause) (s : State) : (storageFault c s).fweFault = true := rfl
@[simp] theorem storageFault_fweCause (c : FaultCause) (s : State) : (storageFault c s).fweCause = c := rfl
@[simp] theorem storageFault_xstate (c : FaultCause) (s : State) : (storageFault c s).xstate = s.xstate := rfl
@[simp] theorem storageFault_xstatus (c : FaultCause) (s : State) : (storageFault c s).xstatus = s.xstatus := rfl
@[simp] theorem storageFault_blk (c : FaultCause) (s : State) : (storageFault c s).blk = s.blk := rfl
@[simp] theorem storageFault_blkInv (c : FaultCause) (s : State) : (storageFault c s).blkInv = s.blkInv := rfl
@[simp] theorem storageFault_expectedBlk (c : FaultCause) (s : State) : (storageFault c s).expectedBlk = s.expectedBlk := rfl
@[simp] theorem storageFault_plenSel (c : FaultCause) (s : State) : (storageFault c s).plenSel = s.plenSel := rfl
@[simp] theorem storageFault_pcount (c : FaultCause) (s : State) : (storageFault c s).pcount = s.pcount := rfl
@[simp] theorem storageFault_pbuf (c : FaultCause) (s : State) : (storageFault c s).pbuf = s.pbuf := rfl
@[simp] theorem storageFault_crcRx (c : FaultCause) (s : State) : (storageFault c s).crcRx = s.crcRx := rfl
@[simp] theorem storageFault_crcCalc (c : FaultCause) (s : State) : (storageFault c s).crcCalc = s.crcCalc := rfl
@[simp] theorem storageFault_storage (c : FaultCause) (s : State) : (storageFault c s).storage = s.storage := rfl
@[simp] theorem storageFault_locked (c : FaultCause) (s : State) : (storageFault c s).locked = s.locked := rfl
@[simp] theorem storageFault_tx (c : FaultCause) (s : State) : (storageFault c s).tx = s.tx := rfl
@[simp] theorem storageFault_diag (c : FaultCause) (s : State) : (storageFault c s).diag = s.diag ++ [.storageFault c] := rfl
@[simp] theorem storageFault_resp (c : FaultCause) (s : State) : (storageFault c s).resp = s.resp := rfl
@[simp] theorem storageFault_rxPort (c : FaultCause) (s : State) : (storageFault c s).rxPort = s.rxPort := rfl
@[simp] theorem storageFault_hostPort (c : FaultCause) (s : State) : (storageFault c s).hostPort = s.hostPort := rfl
@[simp] theorem storageFault_sched (c : FaultCause) (s : State) : (storageFault c s).sched = s.sched := rfl
@[simp] theorem storageFault_script (c : FaultCause) (s : State) : (storageFault c s).script = s.script := rfl
@[simp] theorem storageFault_tail (c : FaultCause) (s : State) : (storageFault c s).tail = s.tail := rfl
@[simp] theorem storageFault_drawCount (c : FaultCause) (s : State) : (storageFault c s).drawCount = s.drawCount := rfl
@[simp] theorem storageFault_txLimit (c : FaultCause) (s : State) : (storageFault c s).txLimit = s.txLimit := rfl
@[simp] theorem storageFault_readLimit (c : FaultCause) (s : State) : (storageFault c s).readLimit = s.readLimit := rfl

/-! ### `writeStorage` -/

@[simp] theorem writeStorage_cfg (a : Nat) (bs : List Byte) (s : State) : (writeStorage a bs s).cfg = s.cfg := rfl
@[simp] theorem writeStorage_fweValid (a : Nat) (bs : List Byte) (s : State) : (writeStorage a bs s).fweValid = s.fweValid := rfl
@[simp] theorem writeStorage_curAddr (a : Nat) (bs : List Byte) (s : State) : (writeStorage a bs s).curAddr = s.curAddr := rfl
@[simp] theorem writeStorage_offset (a : Nat) (bs : List Byte) (s : State) : (writeStorage a bs s).offset = s.offset := rfl
@[simp] theorem writeStorage_mirror (a : Nat) (bs : List Byte) (s : State) : (writeStorage a bs s).mirror = s.mirror := rfl
@[simp] theorem writeStorage_fweFault (a : Nat) (bs : List Byte) (s : State) : (writeStorage a bs s).fweFault = s.fweFault := rfl
@[simp] theorem writeStorage_fweCause (a : Nat) (bs : List Byte) (s : State) : (writeStorage a bs s).fweCause = s.fweCause := rfl
@[simp] theorem writeStorage_xstate (a : Nat) (bs : List Byte) (s : State) : (writeStorage a bs s).xstate = s.xstate := rfl
@[simp] theorem writeStorage_xstatus (a : Nat) (bs : List Byte) (s : State) : (writeStorage a bs s).xstatus = s.xstatus := rfl
@[simp] theorem writeStorage_blk (a : Nat) (bs : List Byte) (s : State) : (writeStorage a bs s).blk = s.blk := rfl
@[simp] theorem writeStorage_blkInv (a : Nat) (bs : List Byte) (s : State) : (writeStorage a bs s).blkInv = s.blkInv := rfl
@[simp] theorem writeStorage_expectedBlk (a : Nat) (bs : List Byte) (s : State) : (writeStorage a bs s).expectedBlk = s.expectedBlk := rfl
@[simp] theorem writeStorage_plenSel (a : Nat) (bs : List Byte) (s : State) : (writeStorage a bs s).plenSel = s.plenSel := rfl
@[simp] theorem writeStorage_pcount (a : Nat) (bs : List Byte) (s : State) : (writeStorage a bs s).pcount = s.pcount := rfl
@[simp] theorem writeStorage_pbuf (a : Nat) (bs : List Byte) (s : State) : (writeStorage a bs s).pbuf = s.pbuf := rfl
@[simp] theorem writeStorage_crcRx (a : Nat) (bs : List Byte) (s : State) : (writeStorage a bs s).crcRx = s.crcRx := rfl
@[simp] theorem writeStorage_crcCalc (a : Nat) (bs : List Byte) (s : State) : (writeStorage a bs s).crcCalc = s.crcCalc := rfl
@[simp] theorem writeStorage_storage (a : Nat) (bs : List Byte) (s : State) : (writeStorage a bs s).storage = Memory.writeBytes s.cfg.erasedByte s.storage a bs := rfl
@[simp] theorem writeStorage_locked (a : Nat) (bs : List Byte) (s : State) : (writeStorage a bs s).locked = s.locked := rfl
@[simp] theorem writeStorage_tx (a : Nat) (bs : List Byte) (s : State) : (writeStorage a bs s).tx = s.tx := rfl
@[simp] theorem writeStorage_diag (a : Nat) (bs : List Byte) (s : State) : (writeStorage a bs s).diag = s.diag := rfl
@[simp] theorem writeStorage_resp (a : Nat) (bs : List Byte) (s : State) : (writeStorage a bs s).resp = s.resp := rfl
@[simp] theorem writeStorage_rxPort (a : Nat) (bs : List Byte) (s : State) : (writeStorage a bs s).rxPort = s.rxPort := rfl
@[simp] theorem writeStorage_hostPort (a : Nat) (bs : List Byte) (s : State) : (writeStorage a bs s).hostPort = s.hostPort := rfl
@[simp] theorem writeStorage_sched (a : Nat) (bs : List Byte) (s : State) : (writeStorage a bs s).sched = s.sched := rfl
@[simp] theorem writeStorage_script (a : Nat) (bs : List Byte) (s : State) : (writeStorage a bs s).script = s.script := rfl
@[simp] theorem writeStorage_tail (a : Nat) (bs : List Byte) (s : State) : (writeStorage a bs s).tail = s.tail := rfl
@[simp] theorem writeStorage_drawCount (a : Nat) (bs : List Byte) (s : State) : (writeStorage a bs s).drawCount = s.drawCount := rfl
@[simp] theorem writeStorage_txLimit (a : Nat) (bs : List Byte) (s : State) : (writeStorage a bs s).txLimit = s.txLimit := rfl
@[simp] theorem writeStorage_readLimit (a : Nat) (bs : List Byte) (s : State) : (writeStorage a bs s).readLimit = s.readLimit := rfl

/-! ### `handleReset` -/

@[simp] theorem handleReset_cfg (s : State) : (handleReset s).cfg = s.cfg := rfl
@[simp] theorem handleReset_fweValid (s : State) : (handleReset s).fweValid = s.fweValid := rfl
@[simp] theorem handleReset_curAddr (s : State) : (handleReset s).curAddr = s.curAddr := rfl
@[simp] theorem handleReset_offset (s : State) : (handleReset s).offset = s.offset := rfl
@[simp] theorem handleReset_mirror (s : State) : (handleReset s).mirror = s.mirror := rfl
@[simp] theorem handleReset_fweFault (s : State) : (handleReset s).fweFault = s.fweFault := rfl
@[simp] theorem handleReset_fweCause (s : State) : (handleReset s).fweCause = s.fweCause := rfl
@[simp] theorem handleReset_xstate (s : State) : (handleReset s).xstate = .waitStart := rfl
@[simp] theorem handleReset_xstatus (s : State) : (handleReset s).xstatus = s.xstatus := rfl
@[simp] theorem handleReset_blk (s : State) : (handleReset s).blk = 0 := rfl
@[simp] theorem handleReset_blkInv (s : State) : (handleReset s).blkInv = 0 := rfl
@[simp] theorem handleReset_expectedBlk (s : State) : (handleReset s).expectedBlk = 1 := rfl
@[simp] theorem handleReset_plenSel (s : State) : (handleReset s).plenSel = false := rfl
@[simp] theorem handleReset_pcount (s : State) : (handleReset s).pcount = 0 := rfl
@[simp] theorem handleReset_pbuf (s : State) : (handleReset s).pbuf = s.pbuf := rfl
@[simp] theorem handleReset_crcRx (s : State) : (handleReset s).crcRx = 0 := rfl
@[simp] theorem handleReset_crcCalc (s : State) : (handleReset s).crcCalc = 0 := rfl
@[simp] theorem handleReset_storage (s : State) : (handleReset s).storage = s.storage := rfl
@[simp] theorem handleReset_locked (s : State) : (handleReset s).locked = s.locked := rfl
@[simp] theorem handleReset_tx (s : State) : (handleReset s).tx = s.tx := rfl
@[simp] theorem handleReset_diag (s : State) : (handleReset s).diag = s.diag := rfl
@[simp] theorem handleReset_resp (s : State) : (handleReset s).resp = s.resp := rfl
@[simp] theorem handleReset_rxPort (s : State) : (handleReset s).rxPort = s.rxPort := rfl
@[simp] theorem handleReset_hostPort (s : State) : (handleReset s).hostPort = s.hostPort := rfl
@[simp] theorem handleReset_sched (s : State) : (handleReset s).sched = s.sched := rfl
@[simp] theorem handleReset_script (s : State) : (handleReset s).script = s.script := rfl
@[simp] theorem handleReset_tail (s : State) : (handleReset s).tail = s.tail := rfl
@[simp] theorem handleReset_drawCount (s : State) : (handleReset s).drawCount = s.drawCount := rfl
@[simp] theorem handleReset_txLimit (s : State) : (handleReset s).txLimit = s.txLimit := rfl
@[simp] theorem handleReset_readLimit (s : State) : (handleReset s).readLimit = s.readLimit := rfl

/-! ### `startPacket` -/

@[simp] theorem startPacket_cfg (sel : Bool) (s : State) : (startPacket sel s).cfg = s.cfg := rfl
@[simp] theorem startPacket_fweValid (sel : Bool) (s : State) : (startPacket sel s).fweValid = s.fweValid := rfl
@[simp] theorem startPacket_curAddr (sel : Bool) (s : State) : (startPacket sel s).curAddr = s.curAddr := rfl
@[simp] theorem startPacket_offset (sel : Bool) (s : State) : (startPacket sel s).offset = s.offset := rfl
@[simp] theorem startPacket_mirror (sel : Bool) (s : State) : (startPacket sel s).mirror = s.mirror := rfl
@[simp] theorem startPacket_fweFault (sel : Bool) (s : State) : (startPacket sel s).fweFault = s.fweFault := rfl
@[simp] theorem startPacket_fweCause (sel : Bool) (s : State) : (startPacket sel s).fweCause = s.fweCause := rfl
@[simp] theorem startPacket_xstate (sel : Bool) (s : State) : (startPacket sel s).xstate = .waitBlockNum := rfl
@[simp] theorem startPacket_xstatus (sel : Bool) (s : State) : (startPacket sel s).xstatus = .inProgress := rfl
@[simp] theorem startPacket_blk (sel : Bool) (s : State) : (startPacket sel s).blk = s.blk := rfl
@[simp] theorem startPacket_blkInv (sel : Bool) (s : State) : (startPacket sel s).blkInv = s.blkInv := rfl
@[simp] theorem startPacket_expectedBlk (sel : Bool) (s : State) : (startPacket sel s).expectedBlk = s.expectedBlk := rfl
@[simp] theorem startPacket_plenSel (sel : Bool) (s : State) : (startPacket sel s).plenSel = sel := rfl
@[simp] theorem startPacket_pcount (sel : Bool) (s : State) : (startPacket sel s).pcount = s.pcount := rfl
@[simp] theorem startPacket_pbuf (sel : Bool) (s : State) : (startPacket sel s).pbuf = s.pbuf := rfl
@[simp] theorem startPacket_crcRx (sel : Bool) (s : State) : (startPacket sel s).crcRx = s.crcRx := rfl
@[simp] theorem startPacket_crcCalc (sel : Bool) (s : State) : (startPacket sel s).crcCalc = s.crcCalc := rfl
@[simp] theorem startPacket_storage (sel : Bool) (s : State) : (startPacket sel s).storage = s.storage := rfl
@[simp] theorem startPacket_locked (sel : Bool) (s : State) : (startPacket sel s).locked = s.locked := rfl
@[simp] theorem startPacket_tx (sel : Bool) (s : State) : (startPacket sel s).tx = s.tx := rfl
@[simp] theorem startPacket_diag (sel : Bool) (s : State) : (startPacket sel s).diag = s.diag := rfl
@[simp] theorem startPacket_resp (sel : Bool) (s : State) : (startPacket sel s).resp = s.resp := rfl
@[simp] theorem startPacket_rxPort (sel : Bool) (s : State) : (startPacket sel s).rxPort = s.rxPort := rfl
@[simp] theorem startPacket_hostPort (sel : Bool) (s : State) : (startPacket sel s).hostPort = s.hostPort := rfl
@[simp] theorem startPacket_sched (sel : Bool) (s : State) : (startPacket sel s).sched = s.sched := rfl
@[simp] theorem startPacket_script (sel : Bool) (s : State) : (startPacket sel s).script = s.script := rfl
@[simp] theorem startPacket_tail (sel : Bool) (s : State) : (startPacket sel s).tail = s.tail := rfl
@[simp] theorem startPacket_drawCount (sel : Bool) (s : State) : (startPacket sel s).drawCount = s.drawCount := rfl
@[simp] theorem startPacket_txLimit (sel : Bool) (s : State) : (startPacket sel s).txLimit = s.txLimit := rfl
@[simp] theorem startPacket_readLimit (sel : Bool) (s : State) : (startPacket sel s).readLimit = s.readLimit := rfl

/-! ### `powerCycle` -/

@[simp] theorem powerCycle_cfg (s : State) : (powerCycle s).cfg = s.cfg := rfl
@[simp] theorem powerCycle_fweValid (s : State) : (powerCycle s).fweValid = false := rfl
@[simp] theorem powerCycle_curAddr (s : State) : (powerCycle s).curAddr = 0 := rfl
@[simp] theorem powerCycle_offset (s : State) : (powerCycle s).offset = 0 := rfl
@[simp] theorem powerCycle_mirror (s : State) : (powerCycle s).mirror = List.replicate s.cfg.pageSize 0 := rfl
@[simp] theorem powerCycle_fweFault (s : State) : (powerCycle s).fweFault = false := rfl
@[simp] theorem powerCycle_fweCause (s : State) : (powerCycle s).fweCause = .none := rfl
@[simp] theorem powerCycle_xstate (s : State) : (powerCycle s).xstate = .waitStart := rfl
@[simp] theorem powerCycle_xstatus (s : State) : (powerCycle s).xstatus = .idle := rfl
@[simp] theorem powerCycle_blk (s : State) : (powerCycle s).blk = 0 := rfl
@[simp] theorem powerCycle_blkInv (s : State) : (powerCycle s).blkInv = 0 := rfl
@[simp] theorem powerCycle_expectedBlk (s : State) : (powerCycle s).expectedBlk = 1 := rfl
@[simp] theorem powerCycle_plenSel (s : State) : (powerCycle s).plenSel = false := rfl
@[simp] theorem powerCycle_pcount (s : State) : (powerCycle s).pcount = 0 := rfl
@[simp] theorem powerCycle_pbuf (s : State) : (powerCycle s).pbuf = List.replicate maxPayload 0 := rfl
@[simp] theorem powerCycle_crcRx (s : State) : (powerCycle s).crcRx = 0 := rfl
@[simp] theorem powerCycle_crcCalc (s : State) : (powerCycle s).crcCalc = 0 := rfl
@[simp] theorem powerCycle_storage (s : State) : (powerCycle s).storage = s.storage := rfl
@[simp] theorem powerCycle_locked (s : State) : (powerCycle s).locked = true := rfl
@[simp] theorem powerCycle_tx (s : State) : (powerCycle s).tx = [] := rfl
@[simp] theorem powerCycle_diag (s : State) : (powerCycle s).diag = [] := rfl
@[simp] theorem powerCycle_resp (s : State) : (powerCycle s).resp = [] := rfl
@[simp] theorem powerCycle_rxPort (s : State) : (powerCycle s).rxPort = s.rxPort := rfl
@[simp] theorem powerCycle_hostPort (s : State) : (powerCycle s).hostPort = s.hostPort := rfl
@[simp] theorem powerCycle_sched (s : State) : (powerCycle s).sched = s.sched := rfl
@[simp] theorem powerCycle_script (s : State) : (powerCycle s).script = s.script := rfl
@[simp] theorem powerCycle_tail (s : State) : (powerCycle s).tail = s.tail := rfl
@[simp] theorem powerCycle_drawCount (s : State) : (powerCycle s).drawCount = s.drawCount := rfl
@[simp] theorem powerCycle_txLimit (s : State) : (powerCycle s).txLimit = s.txLimit := rfl
@[simp] theorem powerCycle_readLimit (s : State) : (powerCycle s).readLimit = s.readLimit := rfl

/-! ### `State.powerOn` -/

@[simp] theorem powerOn_cfg (c : Config) (m : Memory) : (State.powerOn c m).cfg = c := rfl
@[simp] theorem powerOn_fweValid (c : Config) (m : Memory) : (State.powerOn c m).fweValid = false := rfl
@[simp] theorem powerOn_curAddr (c : Config) (m : Memory) : (State.powerOn c m).curAddr = 0 := rfl
@[simp] theorem powerOn_offset (c : Config) (m : Memory) : (State.powerOn c m).offset = 0 := rfl
@[simp] theorem powerOn_mirror (c : Config) (m : Memory) : (State.powerOn c m).mirror = List.replicate c.pageSize 0 := rfl
@[simp] theorem powerOn_fweFault (c : Config) (m : Memory) : (State.powerOn c m).fweFault = false := rfl
@[simp] theorem powerOn_fweCause (c : Config) (m : Memory) : (State.powerOn c m).fweCause = .none := rfl
@[simp] theorem powerOn_xstate (c : Config) (m : Memory) : (State.powerOn c m).xstate = .waitStart := rfl
@[simp] theorem powerOn_xstatus (c : Config) (m : Memory) : (State.powerOn c m).xstatus = .idle := rfl
@[simp] theorem powerOn_blk (c : Config) (m : Memory) : (State.powerOn c m).blk = 0 := rfl
@[simp] theorem powerOn_blkInv (c : Config) (m : Memory) : (State.powerOn c m).blkInv = 0 := rfl
@[simp] theorem powerOn_expectedBlk (c : Config) (m : Memory) : (State.powerOn c m).expectedBlk = 1 := rfl
@[simp] theorem powerOn_plenSel (c : Config) (m : Memory) : (State.powerOn c m).plenSel = false := rfl
@[simp] theorem powerOn_pcount (c : Config) (m : Memory) : (State.powerOn c m).pcount = 0 := rfl
@[simp] theorem powerOn_pbuf (c : Config) (m : Memory) : (State.powerOn c m).pbuf = List.replicate maxPayload 0 := rfl
@[simp] theorem powerOn_crcRx (c : Config) (m : Memory) : (State.powerOn c m).crcRx = 0 := rfl
@[simp] theorem powerOn_crcCalc (c : Config) (m : Memory) : (State.powerOn c m).crcCalc = 0 := rfl
@[simp] theorem powerOn_storage (c : Config) (m : Memory) : (State.powerOn c m).storage = m := rfl
@[simp] theorem powerOn_locked (c : Config) (m : Memory) : (State.powerOn c m).locked = true := rfl
@[simp] theorem powerOn_tx (c : Config) (m : Memory) : (State.powerOn c m).tx = [] := rfl
@[simp] theorem powerOn_diag (c : Config) (m : Memory) : (State.powerOn c m).diag = [] := rfl
@[simp] theorem powerOn_resp (c : Config) (m : Memory) : (State.powerOn c m).resp = [] := rfl
@[simp] theorem powerOn_rxPort (c : Config) (m : Memory) : (State.powerOn c m).rxPort = [] := rfl
@[simp] theorem powerOn_hostPort (c : Config) (m : Memory) : (State.powerOn c m).hostPort = [] := rfl
@[simp] theorem powerOn_sched (c : Config) (m : Memory) : (State.powerOn c m).sched = [] := rfl
@[simp] theorem powerOn_script (c : Config) (m : Memory) : (State.powerOn c m).script = [] := rfl
@[simp] theorem powerOn_tail (c : Config) (m : Memory) : (State.powerOn c m).tail = .free := rfl
@[simp] theorem powerOn_drawCount (c : Config) (m : Memory) : (State.powerOn c m).drawCount = 0 := rfl
@[simp] theorem powerOn_txLimit (c : Config) (m : Memory) : (State.powerOn c m).txLimit = none := rfl
@[simp] theorem powerOn_readLimit (c : Config) (m : Memory) : (State.powerOn c m).readLimit = none := rfl

/-! ### `checksummed` -/

@[simp] theorem checksummed_cfg (b : Byte) (s : State) : (checksummed b s).cfg = s.cfg := rfl
@[simp] theorem checksummed_fweValid (b : Byte) (s : State) : (checksummed b s).fweValid = s.fweValid := rfl
@[simp] theorem checksummed_curAddr (b : Byte) (s : State) : (checksummed b s).curAddr = s.curAddr := rfl
@[simp] theorem checksummed_offset (b : Byte) (s : State) : (checksummed b s).offset = s.offset := rfl
@[simp] theorem checksummed_mirror (b : Byte) (s : State) : (checksummed b s).mirror = s.mirror := rfl
@[simp] theorem checksummed_fweFault (b : Byte) (s : State) : (checksummed b s).fweFault = s.fweFault := rfl
@[simp] theorem checksummed_fweCause (b : Byte) (s : State) : (checksummed b s).fweCause = s.fweCause := rfl
@[simp] theorem checksummed_xstate (b : Byte) (s : State) : (checksummed b s).xstate = .waitStart := rfl
@[simp] theorem checksummed_xstatus (b : Byte) (s : State) : (checksummed b s).xstatus = s.xstatus := rfl
@[simp] theorem checksummed_blk (b : Byte) (s : State) : (checksummed b s).blk = s.blk := rfl
@[simp] theorem checksummed_blkInv (b : Byte) (s : State) : (checksummed b s).blkInv = s.blkInv := rfl
@[simp] theorem checksummed_expectedBlk (b : Byte) (s : State) : (checksummed b s).expectedBlk = s.expectedBlk := rfl
@[simp] theorem checksummed_plenSel (b : Byte) (s : State) : (checksummed b s).plenSel = s.plenSel := rfl
@[simp] theorem checksummed_pcount (b : Byte) (s : State) : (checksummed b s).pcount = s.pcount := rfl
@[simp] theorem checksummed_pbuf (b : Byte) (s : State) : (checksummed b s).pbuf = s.pbuf := rfl
@[simp] theorem checksummed_crcRx (b : Byte) (s : State) :
    (checksummed b s).crcRx = BitVec.ofNat 16 (s.crcRx.toNat / 256 * 256 + b.toNat) := rfl
@[simp] theorem checksummed_crcCalc (b : Byte) (s : State) :
    (checksummed b s).crcCalc = crc16 (s.pbuf.take (plen s)) := rfl
@[simp] theorem checksummed_storage (b : Byte) (s : State) : (checksummed b s).storage = s.storage := rfl
@[simp] theorem checksummed_locked (b : Byte) (s : State) : (checksummed b s).locked = s.locked := rfl
@[simp] theorem checksummed_tx (b : Byte) (s : State) : (checksummed b s).tx = s.tx := rfl
@[simp] theorem checksummed_diag (b : Byte) (s : State) : (checksummed b s).diag = s.diag := rfl
@[simp] theorem checksummed_resp (b : Byte) (s : State) : (checksummed b s).resp = s.resp := rfl
@[simp] theorem checksummed_rxPort (b : Byte) (s : State) : (checksummed b s).rxPort = s.rxPort := rfl
@[simp] theorem checksummed_hostPort (b : Byte) (s : State) : (checksummed b s).hostPort = s.hostPort := rfl
@[simp] theorem checksummed_sched (b : Byte) (s : State) : (checksummed b s).sched = s.sched := rfl
@[simp] theorem checksummed_script (b : Byte) (s : State) : (checksummed b s).script = s.script := rfl
@[simp] theorem checksummed_tail (b : Byte) (s : State) : (checksummed b s).tail = s.tail := rfl
@[simp] theorem checksummed_drawCount (b : Byte) (s : State) : (checksummed b s).drawCount = s.drawCount := rfl
@[simp] theorem checksummed_txLimit (b : Byte) (s : State) : (checksummed b s).txLimit = s.txLimit := rfl
@[simp] theorem checksummed_readLimit (b : Byte) (s : State) : (checksummed b s).readLimit = s.readLimit := rfl
@[simp] theorem checksummed_plen (b : Byte) (s : State) : plen (checksummed b s) = plen s := rfl
@[simp] theorem checksummed_payload (b : Byte) (s : State) : payload (checksummed b s) = payload s := rfl

end Sys2Proof.Machine
end

