-- ==== Sys2Proof/Laws/Ports.lean ====
section
/-! SUPPORT. What the storage oracle, the storage port and the transmit port can do: one specification lemma per operation
(20_memory.md R45 to R51). A storage operation changes storage inside its range, the lock, the draws and the reads left;
`PortStep` says so once. -/

namespace Sys2Proof.Machine

/-- `t` is `s` after storage operations that wrote nothing outside `[lo, hi)`. -/
structure PortStep (lo hi : Nat) (s t : State) : Prop where
  frame : t = { s with
    storage := t.storage, locked := t.locked, script := t.script, drawCount := t.drawCount, readLimit := t.readLimit }
  script : ∀ e ∈ t.script, e ∈ s.script
  reads : s.readLimit = none → t.readLimit = none
  outside : Memory.wf s.cfg.erasedByte s.storage = true →
    ∀ a, a < lo ∨ hi ≤ a → storageByte t a = storageByte s a
  wf : Memory.wf s.cfg.erasedByte s.storage = true → Memory.wf s.cfg.erasedByte t.storage = true
  range : (∀ c ∈ s.storage, s.cfg.storageBase ≤ c.1 ∧ c.1 < s.cfg.storageBase + s.cfg.storageSize) →
    ∀ c ∈ t.storage, s.cfg.storageBase ≤ c.1 ∧ c.1 < s.cfg.storageBase + s.cfg.storageSize

variable {lo hi : Nat} {s t u : State}

theorem PortStep.refl (lo hi : Nat) (s : State) : PortStep lo hi s s :=
  ⟨rfl, fun _ h => h, id, fun _ _ _ => rfl, id, id⟩

theorem PortStep.cfg (h : PortStep lo hi s t) : t.cfg = s.cfg := by rw [h.frame]
theorem PortStep.curAddr (h : PortStep lo hi s t) : t.curAddr = s.curAddr := by rw [h.frame]
theorem PortStep.mirror (h : PortStep lo hi s t) : t.mirror = s.mirror := by rw [h.frame]
theorem PortStep.tail (h : PortStep lo hi s t) : t.tail = s.tail := by rw [h.frame]
theorem PortStep.txLimit (h : PortStep lo hi s t) : t.txLimit = s.txLimit := by rw [h.frame]

theorem PortStep.ready (h : PortStep lo hi s t) (hr : StorageReady s) : StorageReady t :=
  ⟨fun e he => hr.1 e (h.script e he), h.reads hr.2⟩

theorem PortStep.trans (h : PortStep lo hi s t) (k : PortStep lo hi t u) : PortStep lo hi s u := by
  have hc := h.cfg
  refine ⟨?_, fun e he => h.script e (k.script e he), fun hr => k.reads (h.reads hr), fun hm a ha => ?_, fun hm => ?_, fun hr => ?_⟩
  · have hk := k.frame
    rw [h.frame] at hk
    exact hk
  · rw [k.outside (by rw [hc]; exact h.wf hm) a ha, h.outside hm a ha]
  · rw [← hc]; exact k.wf (by rw [hc]; exact h.wf hm)
  · rw [← hc]; exact k.range (by rw [hc]; exact h.range hr)

theorem PortStep.mono {lo' hi' : Nat} (h : PortStep lo hi s t) (hl : lo' ≤ lo) (hh : hi ≤ hi') :
    PortStep lo' hi' s t :=
  ⟨h.frame, h.script, h.reads, fun hm a ha => h.outside hm a (by omega), h.wf, h.range⟩

/-! ### Draws -/

theorem draw_ok {d : Draw} (h : draw s = .ok (d, t)) :
    t = { s with script := t.script, drawCount := s.drawCount + 1 } ∧ ∀ e ∈ t.script, e ∈ s.script := by
  unfold draw at h
  split at h
  · cases h
  · next hs => cases h; simp [hs]; tauto
  · split at h <;> cases h <;> simp

/-- A draw answers where no port hangs. -/
theorem draw_ready (h : StorageReady s) : ∃ d t, draw s = .ok (d, t) := by
  unfold draw
  split
  · next hs => exact absurd rfl (h.1 .never (by simp [hs]))
  · exact ⟨_, _, rfl⟩
  · split <;> exact ⟨_, _, rfl⟩

/-- The fault-free oracle answers `Ok` with no silent error (R49). -/
theorem draw_faultFree (h1 : s.script = []) (h2 : s.tail = .faultFree) :
    draw s = .ok (⟨.ok, [], []⟩, { s with drawCount := s.drawCount + 1 }) := by
  simp [draw, h1, h2]

theorem draw_step {d : Draw} (h : draw s = .ok (d, t)) : PortStep lo hi s t := by
  obtain ⟨h1, h2⟩ := draw_ok h
  refine ⟨?_, h2, fun hr => ?_, fun _ a _ => ?_, fun hm => ?_, fun hr => ?_⟩ <;> rw [h1]
  · exact hr
  · rfl
  · exact hm
  · exact hr

@[simp] theorem drawnBytes_length (d : Draw) (k n : Nat) : (drawnBytes d k n).length = n := by simp [drawnBytes]

/-! ### Storage operations -/

/-- Writing inside storage is a `PortStep` over the bytes written. -/
theorem writeStorage_step {a : Nat} {bs : List Byte} (h1 : lo ≤ a) (h2 : a + bs.length ≤ hi)
    (h3 : InStorage s.cfg a bs.length) : PortStep lo hi s (writeStorage a bs s) := by
  refine ⟨rfl, fun _ h => h, id, fun hm x hx => ?_, fun hm => ?_, fun hr c hc => ?_⟩
  · exact Memory_read_writeBytes_outside bs a x hm (by omega)
  · exact Memory_writeBytes_wf bs a hm
  · rcases Memory_mem_writeBytes bs hc with hc | hc
    · exact ⟨by omega, by omega⟩
    · exact hr c hc

theorem portUnlock_step {r : PortResult} (h : portUnlock s = .ok (r, t)) :
    PortStep lo hi s t ∧ (r = .ok → t.locked = false) := by
  unfold portUnlock at h
  cases hd : draw s with
  | error => rw [hd] at h; cases h
  | ok p =>
    obtain ⟨d, s1⟩ := p
    have hs := draw_step (lo := lo) (hi := hi) hd
    rw [hd] at h
    cases hr : d.result <;> simp [bind, Except.bind, hr] at h <;> obtain ⟨rfl, rfl⟩ := h
    · exact ⟨hs.trans ⟨rfl, fun _ h => h, id, fun _ _ _ => rfl, id, id⟩, fun _ => rfl⟩
    · exact ⟨hs, by simp⟩

theorem portUnlock_ready (h : StorageReady s) : ∃ r t, portUnlock s = .ok (r, t) := by
  obtain ⟨d, t, hd⟩ := draw_ready h
  unfold portUnlock
  rw [hd]
  cases hr : d.result <;> simp [bind, Except.bind, hr]

/-- The lock leaves storage locked whatever it returns (R46). -/
theorem portLock_step {r : PortResult} (h : portLock s = .ok (r, t)) : PortStep lo hi s t ∧ t.locked = true := by
  unfold portLock at h
  cases hd : draw s with
  | error => rw [hd] at h; cases h
  | ok p =>
    obtain ⟨d, s1⟩ := p
    have hs := draw_step (lo := lo) (hi := hi) hd
    rw [hd] at h
    simp [bind, Except.bind] at h
    obtain ⟨rfl, rfl⟩ := h
    exact ⟨hs.trans ⟨rfl, fun _ h => h, id, fun _ _ _ => rfl, id, id⟩, rfl⟩

theorem portLock_ready (h : StorageReady s) : ∃ r t, portLock s = .ok (r, t) := by
  obtain ⟨d, t, hd⟩ := draw_ready h
  exact ⟨d.result, { t with locked := true }, by unfold portLock; rw [hd]; rfl⟩

/-- An erase changes its own page only (R47); where it succeeds the page was in range and the port unlocked. -/
theorem portErase_step {p : Nat} {r : PortResult} (h : portErase p s = .ok (r, t)) :
    PortStep p (p + s.cfg.pageSize) s t ∧
      (r = .ok → t.locked = false ∧ Erasable s.cfg p ∧ p % s.cfg.pageSize = 0) := by
  unfold portErase at h
  split at h
  · cases h; exact ⟨.refl _ _ _, by simp⟩
  · next hg =>
    simp only [not_or, Decidable.not_not, Bool.not_eq_true] at hg
    obtain ⟨hl, ha, hin⟩ := hg
    cases hd : draw s with
    | error => rw [hd] at h; cases h
    | ok q =>
      obtain ⟨d, s1⟩ := q
      have hs := draw_step (lo := p) (hi := p + s.cfg.pageSize) hd
      rw [hd] at h
      have hl1 : s1.locked = false := by rw [(draw_ok hd).1]; exact hl
      have hc := hs.cfg
      cases hr : d.result <;> simp [bind, Except.bind, hr] at h <;> obtain ⟨rfl, rfl⟩ := h
      · refine ⟨hs.trans (writeStorage_step (Nat.le_refl _) ?_ ?_), fun _ => ⟨hl1, hin, ha⟩⟩ <;>
          simp only [List.length_replicate, hc]
        · exact Nat.le_refl _
        · exact hin.1
      · refine ⟨hs.trans (writeStorage_step (Nat.le_refl _) ?_ ?_), by simp⟩ <;>
          simp only [drawnBytes_length, hc]
        · exact Nat.le_refl _
        · exact hin.1

theorem portErase_ready (p : Nat) (h : StorageReady s) : ∃ r t, portErase p s = .ok (r, t) := by
  unfold portErase
  split
  · exact ⟨_, _, rfl⟩
  · obtain ⟨d, t, hd⟩ := draw_ready h
    rw [hd]
    cases hr : d.result <;> simp [bind, Except.bind, hr]

@[simp] theorem programmedBytes_length (p : ProgramSemantics) (old want : List Byte) (mis : List (Option Byte)) :
    (programmedBytes p old want mis).length = min old.length want.length := by
  simp [programmedBytes]

/-- What a page of erased bytes holds once `want` is programmed over it with no silent error (R48). -/
abbrev overErased (c : Config) (want : List Byte) : List Byte :=
  want.map (programmedByte c.programSemantics c.erasedByte)

/-- With no silent error a unit programmed over erased bytes holds what `PROGRAM_SEMANTICS` makes of them (R48). -/
theorem programmedBytes_erased {a : Nat} {want : List Byte}
    (h : ∀ i < want.length, storageByte s (a + i) = s.cfg.erasedByte) :
    programmedBytes s.cfg.programSemantics (storageBytes s a want.length) want [] = overErased s.cfg want := by
  refine List.ext_getElem (by simp) fun i h1 h2 => ?_
  have hi : i < want.length := by simpa using h2
  simp [programmedBytes, storageBytes_getElem, h i hi]

/-- Over erased bytes the mirror lands as asked, where the configuration lets it (R101). -/
theorem overErased_eq {c : Config} (h : ProgramsAsAsked c) (want : List Byte) : overErased c want = want := by
  have : ∀ b, programmedByte c.programSemantics c.erasedByte b = b := fun b => by
    rcases h with h | h
    · rw [h]; rfl
    · rw [h]; cases c.programSemantics
      · rfl
      · exact BitVec.allOnes_and (x := b)
  exact (List.map_congr_left fun b _ => this b).trans (List.map_id want)

/-- A unit programmed over erased bytes by a draw that succeeds with no silent error (R48). -/
theorem portProgram_erased {a : Nat} {data bs : List Byte} (hd : draw s = .ok (⟨.ok, bs, []⟩, t))
    (hl : s.locked = false) (ha : a % s.cfg.progUnit = 0) (hin : InStorage s.cfg a s.cfg.progUnit)
    (hlen : data.length = s.cfg.progUnit) (he : ∀ i < s.cfg.progUnit, storageByte s (a + i) = s.cfg.erasedByte) :
    portProgram a data s = .ok (.ok, writeStorage a (overErased s.cfg data) t) := by
  have h1 := (draw_ok hd).1
  have hc : t.cfg = s.cfg := by rw [h1]
  have hb : ∀ x n, storageBytes t x n = storageBytes s x n := fun x n => by rw [h1]; rfl
  unfold portProgram
  rw [if_neg (by simp [hl, ha, hin.1, hin.2]), hd]
  simp only [bind, Except.bind, hc, hb, ← hlen]
  rw [programmedBytes_erased (fun i hi => he i (by omega))]

/-- A program operation changes its own unit only (R48). -/
theorem portProgram_step {a : Nat} {data : List Byte} {r : PortResult} (hd : data.length = s.cfg.progUnit)
    (h : portProgram a data s = .ok (r, t)) :
    PortStep a (a + s.cfg.progUnit) s t ∧ t.locked = s.locked := by
  unfold portProgram at h
  split at h
  · cases h; exact ⟨.refl _ _ _, rfl⟩
  · next hg =>
    simp only [not_or, Decidable.not_not, Bool.not_eq_true] at hg
    obtain ⟨hl, ha, hin⟩ := hg
    cases hdr : draw s with
    | error => rw [hdr] at h; cases h
    | ok q =>
      obtain ⟨d, s1⟩ := q
      have hs := draw_step (lo := a) (hi := a + s.cfg.progUnit) hdr
      have hl1 : s1.locked = s.locked := by rw [(draw_ok hdr).1]
      rw [hdr] at h
      have hc := hs.cfg
      cases hr : d.result <;> simp [bind, Except.bind, hr] at h <;> obtain ⟨rfl, rfl⟩ := h
      · refine ⟨hs.trans (writeStorage_step (Nat.le_refl _) ?_ ?_), hl1⟩ <;>
          simp only [programmedBytes_length, storageBytes_length, hc, hd, Nat.min_self]
        · exact Nat.le_refl _
        · exact hin
      · refine ⟨hs.trans (writeStorage_step (Nat.le_refl _) ?_ ?_), hl1⟩ <;>
          simp only [drawnBytes_length, hc]
        · exact Nat.le_refl _
        · exact hin

theorem portProgram_ready (a : Nat) (data : List Byte) (h : StorageReady s) :
    ∃ r t, portProgram a data s = .ok (r, t) := by
  unfold portProgram
  split
  · exact ⟨_, _, rfl⟩
  · obtain ⟨d, t, hd⟩ := draw_ready h
    rw [hd]
    cases hr : d.result <;> simp [bind, Except.bind, hr]

/-- One more bulk read uses up one of the reads left, and changes nothing else (R50). -/
theorem takeRead_ok (h : takeRead s = .ok t) :
    t = { s with readLimit := t.readLimit } ∧ (s.readLimit = none → t = s) := by
  unfold takeRead at h
  split at h <;> cases h
  · exact ⟨rfl, fun _ => rfl⟩
  · next hr => exact ⟨rfl, fun hn => by rw [hn] at hr; cases hr⟩

theorem takeRead_ready (h : s.readLimit = none) : takeRead s = .ok s := by simp [takeRead, h]

/-- A read changes no storage (R45); inside storage it gives the storage bytes, and makes no draw. -/
theorem memRead_step {a n : Nat} {bs : List Byte} (h : memRead a n s = .ok (bs, t)) :
    PortStep lo hi s t ∧ t.storage = s.storage ∧ t.locked = s.locked ∧ bs.length = n ∧
      (InStorage s.cfg a n → t = { s with readLimit := t.readLimit } ∧ bs = storageBytes s a n) := by
  unfold memRead at h
  cases ht : takeRead s with
  | error => rw [ht] at h; cases h
  | ok s1 =>
    obtain ⟨e, hn⟩ := takeRead_ok ht
    have hp : PortStep lo hi s s1 := by
      refine ⟨by rw [e], ?_, fun hr => by rw [hn hr, hr], fun _ a _ => ?_, fun hm => ?_, fun hr => ?_⟩ <;> rw [e]
      · exact fun _ h => h
      · rfl
      · exact hm
      · exact hr
    rw [ht] at h
    simp only [bind, Except.bind] at h
    split at h
    · cases h
      refine ⟨hp, ?_, ?_, by simp, fun _ => ⟨e, ?_⟩⟩ <;> rw [e]
      rfl
    · next hin =>
      cases hd : draw s1 with
      | error => rw [hd] at h; cases h
      | ok q =>
        obtain ⟨d, s2⟩ := q
        rw [hd] at h
        cases h
        refine ⟨hp.trans (draw_step hd), ?_, ?_, by simp, fun h => absurd (by rw [e]; exact h) hin⟩ <;>
          rw [(draw_ok hd).1, e]

theorem memRead_inStorage {a n : Nat} (hr : s.readLimit = none) (h : InStorage s.cfg a n) :
    memRead a n s = .ok (storageBytes s a n, s) := by
  simp only [memRead, takeRead_ready hr, bind, Except.bind, if_pos h]

theorem memRead_ready (a n : Nat) (h : StorageReady s) : ∃ bs t, memRead a n s = .ok (bs, t) := by
  simp only [memRead, takeRead_ready h.2, bind, Except.bind]
  split
  · exact ⟨_, _, rfl⟩
  · obtain ⟨d, t, hd⟩ := draw_ready h
    exact ⟨_, _, by rw [hd]⟩

/-! ### The transmit port -/

/-- `Send` where the port becomes ready (R51). -/
theorem send_ready (b : Byte) (h : s.txLimit = none) : send b s = .ok { s with tx := s.tx ++ [b] } := by
  simp [send, h]

theorem send_ok {b : Byte} (h : send b s = .ok t) : t = { s with tx := s.tx ++ [b], txLimit := t.txLimit } := by
  unfold send at h
  split at h <;> cases h <;> simp_all

/-- A protocol fault where the port becomes ready (R138, R144). -/
theorem protocolFault_ready (d : Diag) (h : s.txLimit = none) :
    protocolFault d s =
      .ok { s with tx := s.tx ++ [nak], diag := s.diag ++ [d], xstate := .waitStart } := by
  simp [protocolFault, send_ready _ h, bind, Except.bind, logDiag]

theorem protocolFault_ok {d : Diag} (h : protocolFault d s = .ok t) :
    t = { s with
      tx := s.tx ++ [nak], txLimit := t.txLimit, diag := s.diag ++ [d], xstate := .waitStart } := by
  unfold protocolFault at h
  cases hs : send nak s with
  | error => rw [hs] at h; cases h
  | ok s1 =>
    rw [hs] at h
    cases h
    rw [send_ok hs]
    rfl

end Sys2Proof.Machine
end

