-- ==== Sys2Proof/Laws/Flush.lean ====
section
/-! SUPPORT. What FlushProc can do (42_flash_write_engine.md R97 to R104): one specification lemma per step of it, one for the
whole, and its result under the fault-free oracle. -/

namespace Sys2Proof.Machine

variable {s t : State}

/-- What FlushProc needs of a state beside its precondition: pages of whole units, an aligned page, a whole mirror. -/
structure FlushReady (s : State) : Prop where
  pos : 0 < s.cfg.pageSize
  units : s.cfg.pageSize % s.cfg.progUnit = 0
  aligned : s.curAddr.toNat % s.cfg.pageSize = 0
  length : s.mirror.length = s.cfg.pageSize

theorem Inv.flushReady (h : Inv s) : FlushReady s where
  pos := by have := h.cfg_valid.1; omega
  units := h.cfg_valid.2.1
  aligned := h.aligned
  length := h.mirror_length

/-! ### The program step -/

theorem programUnits_step : ∀ (n : Nat) {a : Nat} {data : List Byte} {s t : State} {r : PortResult},
    data.length = n * s.cfg.progUnit → programUnits n a data s = .ok (r, t) →
    PortStep a (a + n * s.cfg.progUnit) s t ∧ t.locked = s.locked
  | 0, a, data, s, t, r, _, h => by cases h; exact ⟨.refl _ _ _, rfl⟩
  | n + 1, a, data, s, t, r, hl, h => by
    have hu : s.cfg.progUnit ≤ data.length := by rw [hl, Nat.succ_mul]; omega
    unfold programUnits at h
    cases hp : portProgram a (data.take s.cfg.progUnit) s with
    | error => rw [hp] at h; cases h
    | ok q =>
      obtain ⟨r1, s1⟩ := q
      obtain ⟨h1, hk⟩ := portProgram_step (by rw [List.length_take]; omega) hp
      have h1' : PortStep a (a + (n + 1) * s.cfg.progUnit) s s1 :=
        h1.mono (Nat.le_refl _) (by rw [Nat.succ_mul]; omega)
      rw [hp] at h
      cases r1
      · simp only [bind, Except.bind, h1.cfg] at h
        obtain ⟨h2, hk2⟩ := programUnits_step n (by rw [List.length_drop, hl, h1.cfg, Nat.succ_mul]; omega) h
        refine ⟨h1'.trans (h2.mono (by omega) ?_), hk2.trans hk⟩
        rw [h1.cfg, Nat.succ_mul]; omega
      · cases h; exact ⟨h1', hk⟩

theorem programUnits_ready : ∀ (n a : Nat) (data : List Byte) {s : State}, StorageReady s →
    data.length = n * s.cfg.progUnit → ∃ r t, programUnits n a data s = .ok (r, t)
  | 0, a, data, s, _, _ => ⟨_, _, rfl⟩
  | n + 1, a, data, s, hr, hl => by
    have hu : s.cfg.progUnit ≤ data.length := by rw [hl, Nat.succ_mul]; omega
    obtain ⟨r1, s1, hp⟩ := portProgram_ready a (data.take s.cfg.progUnit) hr
    obtain ⟨h1, -⟩ := portProgram_step (by rw [List.length_take]; omega) hp
    obtain ⟨r2, t, h2⟩ := programUnits_ready n (a + s1.cfg.progUnit) (data.drop s1.cfg.progUnit) (h1.ready hr)
      (by rw [List.length_drop, hl, h1.cfg, Nat.succ_mul]; omega)
    unfold programUnits
    rw [hp]
    cases r1
    · exact ⟨r2, t, h2⟩
    · exact ⟨_, _, rfl⟩

/-- The next `k` draws of the oracle succeed with no silent error; `q j` is its script after `j` of them. -/
abbrev OkDraws (k : Nat) (q : Nat → List ScriptEntry) (tail : OracleTail) : Prop :=
  ∀ j < k, ∀ u : State, u.script = q j → u.tail = tail →
    ∃ bs, draw u = .ok (⟨.ok, bs, []⟩, { u with script := q (j + 1), drawCount := u.drawCount + 1 })

/-- The first `k` units of the program step over erased bytes, where their draws succeed with no silent error (R100). -/
theorem programUnits_okDraws : ∀ (k m : Nat) {a : Nat} {data : List Byte} {q : Nat → List ScriptEntry} {s : State},
    OkDraws k q s.tail → s.script = q 0 → s.locked = false → Memory.wf s.cfg.erasedByte s.storage = true →
    (∀ i < k * s.cfg.progUnit, storageByte s (a + i) = s.cfg.erasedByte) →
    a % s.cfg.progUnit = 0 → InStorage s.cfg a (k * s.cfg.progUnit) → k * s.cfg.progUnit ≤ data.length →
    programUnits (k + m) a data s =
      programUnits m (a + k * s.cfg.progUnit) (data.drop (k * s.cfg.progUnit)) { s with
        storage := Memory.writeBytes s.cfg.erasedByte s.storage a (overErased s.cfg (data.take (k * s.cfg.progUnit)))
        script := q k, drawCount := s.drawCount + k }
  | 0, m, a, data, q, s, _, hs, _, _, _, _, _, _ => by
    simp [Memory.writeBytes, ← hs]
  | k + 1, m, a, data, q, s, hq, hs, hl, hm, he, ha, hin, hd => by
    rw [Nat.succ_mul] at hin hd he
    obtain ⟨bs, hdr⟩ := hq 0 (by omega) s hs rfl
    have hp := portProgram_erased (data := data.take s.cfg.progUnit) hdr hl ha ⟨hin.1, by have := hin.2; omega⟩
      (by rw [List.length_take]; omega) (fun i hi => he i (by omega))
    have hlen : (overErased s.cfg (data.take s.cfg.progUnit)).length = s.cfg.progUnit := by
      rw [List.length_map, List.length_take]; omega
    have ih := programUnits_okDraws k m (a := a + s.cfg.progUnit) (data := data.drop s.cfg.progUnit)
      (q := fun j => q (j + 1))
      (s := writeStorage a (overErased s.cfg (data.take s.cfg.progUnit))
        { s with script := q 1, drawCount := s.drawCount + 1 })
      (fun j hj => hq (j + 1) (by omega)) rfl hl (Memory_writeBytes_wf _ _ hm)
      (fun i hi => by
        replace hi : i < k * s.cfg.progUnit := hi
        have := he (s.cfg.progUnit + i) (by omega)
        rw [← Nat.add_assoc] at this
        exact (Memory_read_writeBytes_outside _ _ _ hm (by rw [hlen]; omega)).trans this)
      (by simp [ha])
      ⟨by show s.cfg.storageBase ≤ a + s.cfg.progUnit; omega,
        by show a + s.cfg.progUnit + k * s.cfg.progUnit ≤ s.cfg.storageBase + s.cfg.storageSize; omega⟩
      (by show k * s.cfg.progUnit ≤ (data.drop s.cfg.progUnit).length; rw [List.length_drop]; omega)
    have hw : Memory.writeBytes s.cfg.erasedByte s.storage a
          (overErased s.cfg (data.take ((k + 1) * s.cfg.progUnit))) =
        Memory.writeBytes s.cfg.erasedByte
          (Memory.writeBytes s.cfg.erasedByte s.storage a (overErased s.cfg (data.take s.cfg.progUnit)))
          (a + s.cfg.progUnit) (overErased s.cfg ((data.drop s.cfg.progUnit).take (k * s.cfg.progUnit))) := by
      conv_lhs =>
        rw [Nat.succ_mul, Nat.add_comm (k * s.cfg.progUnit), List.take_add, overErased, List.map_append,
          Memory_writeBytes_append]
      rw [hlen]
    rw [show k + 1 + m = (k + m) + 1 by omega]
    conv_lhs => unfold programUnits
    rw [hp]
    have key : ∀ {a a' : Nat} {d d' : List Byte} {u u' : State}, a = a' → d = d' → u = u' →
        programUnits m a d u = programUnits m a' d' u' := by rintro _ _ _ _ _ _ rfl rfl rfl; rfl
    refine ih.trans (key ?_ ?_ ?_)
    · show a + s.cfg.progUnit + k * s.cfg.progUnit = a + (k + 1) * s.cfg.progUnit
      rw [Nat.succ_mul]; omega
    · show (data.drop s.cfg.progUnit).drop (k * s.cfg.progUnit) = data.drop ((k + 1) * s.cfg.progUnit)
      rw [List.drop_drop, Nat.succ_mul, Nat.add_comm]
    · apply State.ext <;> first | rfl | exact hw.symm | exact Nat.add_right_comm _ _ _

theorem FaultFree.okDraws (h : FaultFree s) (k : Nat) : OkDraws k (fun _ => s.script) s.tail :=
  fun _ _ _ h1 h2 => ⟨[], by rw [draw_faultFree (h1.trans h.1) (h2.trans h.2.1), ← h1]⟩

/-- A page that was just erased reads as erased bytes (R47). -/
theorem storageByte_erased (hm : Memory.wf s.cfg.erasedByte s.storage = true) {p n i : Nat} (hi : i < n) :
    storageByte (writeStorage p (List.replicate n s.cfg.erasedByte) s) (p + i) = s.cfg.erasedByte := by
  refine (Memory_read_writeBytes _ _ _ hm).trans ?_
  rw [if_pos (by simp; omega), List.getD_eq_getElem?_getD, List.getElem?_replicate, if_pos (by omega)]
  rfl

/-! ### The page -/

theorem verifyPage_step {lo hi : Nat} {c : FaultCause} (h : verifyPage s = .ok (c, t)) :
    PortStep lo hi s t ∧ t.storage = s.storage ∧ c ≠ .notInit ∧
      (c = .none → InStorage s.cfg s.curAddr.toNat s.cfg.pageSize →
        storageBytes s s.curAddr.toNat s.cfg.pageSize = s.mirror) := by
  unfold verifyPage at h
  cases hm : memRead s.curAddr.toNat s.cfg.pageSize s with
  | error => rw [hm] at h; cases h
  | ok q =>
    obtain ⟨bs, s1⟩ := q
    obtain ⟨h1, h2, -, -, h5⟩ := memRead_step (lo := lo) (hi := hi) hm
    rw [hm] at h
    cases h
    refine ⟨h1, h2, by split <;> simp, fun hc hin => ?_⟩
    obtain ⟨-, rfl⟩ := h5 hin
    by_contra hne
    rw [← h1.mirror, ← Ne] at hne
    simp [hne] at hc

/-- FlushProc's work on the page changes that page only; with no cause recorded the page is in range and holds the
mirror (R97 to R101). -/
theorem flushPage_step {c : FaultCause} (hf : FlushReady s) (h : flushPage s = .ok (c, t)) :
    PortStep s.curAddr.toNat (s.curAddr.toNat + s.cfg.pageSize) s t ∧ c ≠ .notInit ∧
      (c = .none → Erasable s.cfg s.curAddr.toNat ∧
        storageBytes t s.curAddr.toNat s.cfg.pageSize = s.mirror) := by
  unfold flushPage at h
  cases hu : portUnlock s with
  | error => rw [hu] at h; cases h
  | ok q =>
    obtain ⟨r1, s1⟩ := q
    obtain ⟨h1, -⟩ := portUnlock_step (lo := s.curAddr.toNat) (hi := s.curAddr.toNat + s.cfg.pageSize) hu
    rw [hu] at h
    cases r1
    case fail => cases h; exact ⟨h1, by simp, by simp⟩
    simp only [bind, Except.bind] at h
    cases he : portErase s1.curAddr.toNat s1 with
    | error => rw [he] at h; cases h
    | ok q =>
      obtain ⟨r2, s2⟩ := q
      obtain ⟨h2, h2'⟩ := portErase_step he
      rw [h1.curAddr, h1.cfg] at h2 h2'
      have h12 := h1.trans h2
      rw [he] at h
      cases r2
      case fail => cases h; exact ⟨h12, by simp, by simp⟩
      simp only at h
      cases hp : programUnits (s2.cfg.pageSize / s2.cfg.progUnit) s2.curAddr.toNat s2.mirror s2 with
      | error => rw [hp] at h; cases h
      | ok q =>
        obtain ⟨r3, s3⟩ := q
        have hPU : s.cfg.pageSize / s.cfg.progUnit * s.cfg.progUnit = s.cfg.pageSize :=
          Nat.div_mul_cancel (Nat.dvd_of_mod_eq_zero hf.units)
        obtain ⟨h3, -⟩ := programUnits_step _ (by rw [h12.mirror, hf.length, h12.cfg, hPU]) hp
        rw [h12.cfg, h12.curAddr, hPU] at h3
        have h123 := h12.trans h3
        rw [hp] at h
        cases r3
        case fail => cases h; exact ⟨h123, by simp, by simp⟩
        simp only at h
        obtain ⟨h4, h5, h5', h6⟩ :=
          verifyPage_step (lo := s.curAddr.toNat) (hi := s.curAddr.toNat + s.cfg.pageSize) h
        refine ⟨h123.trans h4, h5', fun hc => ⟨(h2' rfl).2.1, ?_⟩⟩
        have := h6 hc (by rw [h123.cfg, h123.curAddr]; exact (h2' rfl).2.1.1)
        rw [h123.cfg, h123.curAddr, h123.mirror] at this
        rw [← this]
        simp only [storageBytes, h5, h4.cfg]

theorem flushPage_ready (hf : FlushReady s) (hr : StorageReady s) : ∃ c t, flushPage s = .ok (c, t) := by
  unfold flushPage
  obtain ⟨r1, s1, hu⟩ := portUnlock_ready hr
  obtain ⟨h1, -⟩ := portUnlock_step (lo := s.curAddr.toNat) (hi := s.curAddr.toNat + s.cfg.pageSize) hu
  rw [hu]
  cases r1
  case fail => exact ⟨_, _, rfl⟩
  obtain ⟨r2, s2, he⟩ := portErase_ready s1.curAddr.toNat (h1.ready hr)
  obtain ⟨h2, -⟩ := portErase_step he
  rw [h1.curAddr, h1.cfg] at h2
  have h12 := h1.trans h2
  simp only [bind, Except.bind, he]
  cases r2
  case fail => exact ⟨_, _, rfl⟩
  have hPU : s.cfg.pageSize / s.cfg.progUnit * s.cfg.progUnit = s.cfg.pageSize :=
    Nat.div_mul_cancel (Nat.dvd_of_mod_eq_zero hf.units)
  have hlen : s2.mirror.length = s2.cfg.pageSize / s2.cfg.progUnit * s2.cfg.progUnit := by
    rw [h12.mirror, hf.length, h12.cfg, hPU]
  obtain ⟨r3, s3, hp⟩ := programUnits_ready (s2.cfg.pageSize / s2.cfg.progUnit) s2.curAddr.toNat s2.mirror
    (h12.ready hr) hlen
  obtain ⟨h3, -⟩ := programUnits_step _ hlen hp
  simp only [hp]
  cases r3
  case fail => exact ⟨_, _, rfl⟩
  obtain ⟨bs, s4, hm⟩ := memRead_ready s3.curAddr.toNat s3.cfg.pageSize (h3.ready (h12.ready hr))
  exact ⟨_, _, by simp only [verifyPage, hm, bind, Except.bind]; rfl⟩

/-- Under the fault-free oracle the page is written and verifies (R101). -/
theorem flushPage_faultFree (hf : FlushReady s) (ho : FaultFree s) (hps : ProgramsAsAsked s.cfg)
    (hm : Memory.wf s.cfg.erasedByte s.storage = true) (hin : Erasable s.cfg s.curAddr.toNat) :
    ∃ k, flushPage s = .ok (.none, { s with
      storage := Memory.writeBytes s.cfg.erasedByte s.storage s.curAddr.toNat s.mirror
      locked := false, drawCount := k }) := by
  have hPU : s.cfg.pageSize / s.cfg.progUnit * s.cfg.progUnit = s.cfg.pageSize :=
    Nat.div_mul_cancel (Nat.dvd_of_mod_eq_zero hf.units)
  have hau : s.curAddr.toNat % s.cfg.progUnit = 0 :=
    Nat.mod_eq_zero_of_dvd ((Nat.dvd_of_mod_eq_zero hf.units).trans (Nat.dvd_of_mod_eq_zero hf.aligned))
  have hu : portUnlock s = .ok (.ok, { s with drawCount := s.drawCount + 1, locked := false }) := by
    unfold portUnlock; rw [draw_faultFree ho.1 ho.2.1]; rfl
  have he : portErase s.curAddr.toNat { s with drawCount := s.drawCount + 1, locked := false } =
      .ok (.ok, writeStorage s.curAddr.toNat (List.replicate s.cfg.pageSize s.cfg.erasedByte)
        { s with drawCount := s.drawCount + 2, locked := false }) := by
    unfold portErase
    rw [if_neg (fun h => h.elim (by simp) (·.elim (· hf.aligned) (· hin))),
      draw_faultFree (s := { s with drawCount := s.drawCount + 1, locked := false }) ho.1 ho.2.1]
    rfl
  have hp := programUnits_okDraws (s.cfg.pageSize / s.cfg.progUnit) 0 (a := s.curAddr.toNat) (data := s.mirror)
    (q := fun _ => s.script)
    (s := writeStorage s.curAddr.toNat (List.replicate s.cfg.pageSize s.cfg.erasedByte)
      { s with drawCount := s.drawCount + 2, locked := false }) (ho.okDraws _) rfl rfl (Memory_writeBytes_wf _ _ hm)
      (fun i hi => storageByte_erased (s := { s with drawCount := s.drawCount + 2, locked := false }) hm
        (by rw [writeStorage_cfg, hPU] at hi; exact hi)) hau
      (by rw [writeStorage_cfg, hPU]; exact hin.1) (by rw [hf.length, writeStorage_cfg, hPU])
  have htake : s.mirror.take s.cfg.pageSize = s.mirror := List.take_of_length_le (by rw [hf.length])
  simp only [writeStorage_cfg, hPU, htake, overErased_eq hps, Nat.add_zero, programUnits] at hp
  have hW : Memory.writeBytes s.cfg.erasedByte
      (Memory.writeBytes s.cfg.erasedByte s.storage s.curAddr.toNat
        (List.replicate s.cfg.pageSize s.cfg.erasedByte)) s.curAddr.toNat s.mirror =
      Memory.writeBytes s.cfg.erasedByte s.storage s.curAddr.toNat s.mirror := by
    refine Memory_ext (d := s.cfg.erasedByte) (Memory_writeBytes_wf _ _ (Memory_writeBytes_wf _ _ hm))
      (Memory_writeBytes_wf _ _ hm) fun a => ?_
    rw [Memory_read_writeBytes s.mirror _ _ (Memory_writeBytes_wf _ _ hm),
      Memory_read_writeBytes s.mirror (m := s.storage) _ _ hm]
    split
    · rfl
    · rw [Memory_read_writeBytes_outside _ _ _ hm]
      rw [List.length_replicate, ← hf.length]; omega
  refine ⟨s.drawCount + 2 + s.cfg.pageSize / s.cfg.progUnit, ?_⟩
  unfold flushPage
  rw [hu]
  simp only [bind, Except.bind, he]
  simp only [writeStorage_cfg, writeStorage_mirror, writeStorage_curAddr] at hp ⊢
  rw [hp]
  simp only [writeStorage, hW]
  unfold verifyPage
  simp only
  rw [memRead_inStorage (by exact ho.2.2) (by exact hin.1)]
  simp only [bind, Except.bind]
  congr 2
  rw [if_pos]
  rw [storageBytes_eq_iff]
  refine ⟨by simp [hf.length], fun i hi => ?_⟩
  simp only [storageByte] at hi ⊢
  rw [Memory_read_writeBytes _ _ _ hm, if_pos (by omega)]
  simp [hi]

/-! ### The commit -/

/-- The page after one in range is `cur_addr + PAGE_SIZE`: nothing wraps (R42, R103). -/
theorem nextPage_toNat (h : Erasable s.cfg s.curAddr.toNat) :
    (nextPage s).toNat = s.curAddr.toNat + s.cfg.pageSize := by
  rw [nextPage, BitVec.toNat_ofNat, Nat.mod_eq_of_lt h.2]

/-- The commit (R103): the handle moves to the next page, and the mirror is the next page's (Reload) or unchanged (Keep). -/
theorem commitFlush_spec (h : commitFlush s = .ok t) :
    t = { s with
      offset := 0, curAddr := nextPage s, mirror := t.mirror, script := t.script, drawCount := t.drawCount
      readLimit := t.readLimit } ∧
    ((∀ e ∈ t.script, e ∈ s.script) ∧ (s.readLimit = none → t.readLimit = none)) ∧
    (s.cfg.mirrorAfterFlush = .keep → t.mirror = s.mirror) ∧
    (s.cfg.mirrorAfterFlush = .reload → t.mirror.length = s.cfg.pageSize ∧
      (InStorage s.cfg (nextPage s).toNat s.cfg.pageSize →
        t.mirror = storageBytes s (nextPage s).toNat s.cfg.pageSize)) := by
  unfold commitFlush at h
  cases hc : s.cfg.mirrorAfterFlush
  · simp only [hc, loadMirror] at h
    cases hm : memRead (nextPage s).toNat s.cfg.pageSize
        { s with offset := 0, curAddr := nextPage s } with
    | error => rw [hm] at h; cases h
    | ok q =>
      obtain ⟨bs, s1⟩ := q
      obtain ⟨h1, h2, h3, h4, h5⟩ := memRead_step (lo := 0) (hi := 0) hm
      rw [hm] at h
      cases h
      refine ⟨?_, ⟨h1.script, h1.reads⟩, by simp, fun _ => ⟨h4, fun hin => (h5 hin).2⟩⟩
      rw [h1.frame, h2, h3]
  · simp only [hc] at h
    cases h
    exact ⟨rfl, ⟨fun _ h => h, id⟩, fun _ => rfl, by simp⟩

theorem commitFlush_ready (hr : StorageReady s) : ∃ t, commitFlush s = .ok t := by
  unfold commitFlush
  cases hc : s.cfg.mirrorAfterFlush
  · obtain ⟨bs, s1, hm⟩ := memRead_ready (nextPage s).toNat s.cfg.pageSize
      (s := { s with offset := 0, curAddr := nextPage s }) hr
    exact ⟨{ s1 with mirror := bs }, by simp only [hc, loadMirror, hm, bind, Except.bind]⟩
  · simp only [hc]; exact ⟨_, rfl⟩

/-! ### FlushProc -/

/-- Everything FlushProc can do (R97 to R104): on failure a storage fault over storage operations on its own page, nothing
else; on success a commit over a page in range that holds the mirror. The port is locked on either path (R102). -/
theorem flushProc_spec {r : PortResult} (hf : FlushReady s) (h : flushProc s = .ok (r, t)) :
    ∃ s1, PortStep s.curAddr.toNat (s.curAddr.toNat + s.cfg.pageSize) s s1 ∧ s1.locked = true ∧
      ((r = .fail ∧ ∃ c, c ≠ .none ∧ c ≠ .notInit ∧ t = storageFault c s1) ∨
       (r = .ok ∧ Erasable s.cfg s.curAddr.toNat ∧
        storageBytes s1 s.curAddr.toNat s.cfg.pageSize = s.mirror ∧ commitFlush s1 = .ok t)) := by
  unfold flushProc at h
  split at h
  case isFalse => cases h
  cases hp : flushPage s with
  | error => rw [hp] at h; cases h
  | ok q =>
    obtain ⟨c, s1⟩ := q
    obtain ⟨h1, h1n, h1'⟩ := flushPage_step hf hp
    rw [hp] at h
    simp only [bind, Except.bind] at h
    cases hl : portLock s1 with
    | error => rw [hl] at h; cases h
    | ok q =>
      obtain ⟨l, s2⟩ := q
      obtain ⟨h2, h2'⟩ := portLock_step (lo := s.curAddr.toNat) (hi := s.curAddr.toNat + s.cfg.pageSize) hl
      have hst : s2.storage = s1.storage := by
        unfold portLock at hl
        cases hd : draw s1 with
        | error => rw [hd] at hl; cases hl
        | ok q =>
          obtain ⟨d, s3⟩ := q
          rw [hd] at hl
          simp only [bind, Except.bind, Except.ok.injEq, Prod.mk.injEq] at hl
          rw [← hl.2, (draw_ok hd).1]
      rw [hl] at h
      refine ⟨s2, h1.trans h2, h2', ?_⟩
      simp only at h
      split at h
      · next hc =>
        have hcn : c = .none := by cases c <;> cases l <;> simp_all [lockCause]
        cases hk : commitFlush s2 with
        | error => rw [hk] at h; cases h
        | ok s3 =>
          rw [hk] at h
          cases h
          refine .inr ⟨rfl, (h1' hcn).1, ?_, rfl⟩
          have := (h1' hcn).2
          simp only [storageBytes, hst, h2.cfg] at this ⊢
          exact this
      · next hc =>
        cases h
        exact .inl ⟨rfl, _, hc, by cases c <;> cases l <;> simp_all [lockCause], rfl⟩

theorem flushProc_ready (hv : s.fweValid = true) (hf : FlushReady s) (hr : StorageReady s) :
    ∃ r t, flushProc s = .ok (r, t) := by
  obtain ⟨c, s1, hp⟩ := flushPage_ready hf hr
  obtain ⟨l, s2, hl⟩ := portLock_ready ((flushPage_step hf hp).1.ready hr)
  obtain ⟨s3, hk⟩ := commitFlush_ready
    (((portLock_step (lo := 0) (hi := 0) hl).1).ready ((flushPage_step hf hp).1.ready hr))
  unfold flushProc
  rw [if_pos hv, hp]
  simp only [bind, Except.bind, hl]
  split
  · exact ⟨.ok, s3, by rw [hk]⟩
  · exact ⟨_, _, rfl⟩

/-- Under the fault-free oracle a flush of a page in range succeeds: the page holds the mirror, and every other storage byte
and register is as before, but for the handle's (R97, R101, R103). -/
theorem flushProc_faultFree (hv : s.fweValid = true) (hf : FlushReady s) (ho : FaultFree s)
    (hps : ProgramsAsAsked s.cfg) (hm : Memory.wf s.cfg.erasedByte s.storage = true)
    (hin : Erasable s.cfg s.curAddr.toNat) :
    ∃ k t, flushProc s = .ok (.ok, t) ∧ commitFlush { s with
      storage := Memory.writeBytes s.cfg.erasedByte s.storage s.curAddr.toNat s.mirror
      locked := true, drawCount := k } = .ok t := by
  obtain ⟨k, hp⟩ := flushPage_faultFree hf ho hps hm hin
  have hl : portLock { s with
      storage := Memory.writeBytes s.cfg.erasedByte s.storage s.curAddr.toNat s.mirror
      locked := false, drawCount := k } = .ok (.ok, { s with
        storage := Memory.writeBytes s.cfg.erasedByte s.storage s.curAddr.toNat s.mirror
        locked := true, drawCount := k + 1 }) := by
    unfold portLock
    rw [draw_faultFree (s := { s with
      storage := Memory.writeBytes s.cfg.erasedByte s.storage s.curAddr.toNat s.mirror
      locked := false, drawCount := k }) ho.1 ho.2.1]
    rfl
  obtain ⟨t, hk⟩ := commitFlush_ready (s := { s with
      storage := Memory.writeBytes s.cfg.erasedByte s.storage s.curAddr.toNat s.mirror
      locked := true, drawCount := k + 1 }) ⟨fun e he => by simp [ho.1] at he, ho.2.2⟩
  refine ⟨k + 1, t, ?_, hk⟩
  unfold flushProc
  rw [if_pos hv, hp]
  simp only [bind, Except.bind, hl, lockCause, hk]

/-- FlushProc in the words of the statements. -/
theorem flushProc_flushed {r : PortResult} (hf : FlushReady s)
    (hm : Memory.wf s.cfg.erasedByte s.storage = true) (h : flushProc s = .ok (r, t)) : Flushed s t r := by
  obtain ⟨s1, h1, hl, ⟨rfl, c, hc, hn, rfl⟩ | ⟨rfl, hin, hpage, hk⟩⟩ := flushProc_spec hf h
  · refine ⟨?_, hl, fun a ha => ?_, by simp, fun _ => ⟨h1.curAddr, ?_, h1.mirror, rfl, hc, hn, ?_⟩⟩
    · rw [h1.frame]; rfl
    · exact h1.outside hm a ha
    · rw [h1.frame]; rfl
    · rw [h1.frame]; rfl
  · obtain ⟨h2, -, hkeep, hrel⟩ := commitFlush_spec hk
    have e1 : t.storage = s1.storage := by rw [h2]
    have e2 : t.cfg = s.cfg := by rw [h2]; exact h1.cfg
    have hb : ∀ a n, storageBytes t a n = storageBytes s1 a n := fun a n => by
      simp only [storageBytes, e1, e2, h1.cfg]
    refine ⟨?_, ?_, fun a ha => ?_, fun _ => ⟨hin, ?_, ?_, ?_, fun hp => ?_, fun hp hi => ?_, ?_, ?_, ?_⟩, by simp⟩
    · apply State.ext <;> first | rfl | (rw [h2]; rw [h1.frame])
    · rw [h2]; exact hl
    · have := h1.outside hm a ha
      simp only [storageByte, e1, e2, h1.cfg] at this ⊢
      exact this
    · rw [hb]; exact hpage
    · rw [h2]
    · rw [h2]
      show (nextPage s1).toNat = _
      rw [nextPage_toNat (by rw [h1.curAddr, h1.cfg]; exact hin), h1.curAddr, h1.cfg]
    · rw [hkeep (by rw [h1.cfg]; exact hp), h1.mirror]
    · have ec : t.curAddr = nextPage s1 := by rw [h2]
      rw [ec] at hi ⊢
      rw [hb, (hrel (by rw [h1.cfg]; exact hp)).2 (by rw [h1.cfg]; exact hi), h1.cfg]
    · rw [h2]; show s1.fweFault = _; rw [h1.frame]
    · rw [h2]; show s1.fweCause = _; rw [h1.frame]
    · rw [h2]; show s1.diag = _; rw [h1.frame]

end Sys2Proof.Machine
end

