-- ==== Sys2Proof/Laws/Step.lean ====
section
/-! SUPPORT. What the next event can be, and what a step is for each: the fetch in the cases of its schedule, and a step
taken apart once. -/

namespace Sys2Proof.Machine

variable {s t : State}

/-- A step of a valid configuration runs what it fetches. -/
theorem step_valid (h : configValid s.cfg) :
    step s =
      match fetch s with
      | .run i s' => exec i s'
      | .reset s' => .next (powerCycle s')
      | .illegal s' => .next (illegalCommand s')
      | .idle => .refused .noStepReady
      | .malformed => .refused .malformedCommand
      | .reserved => .fault .reservedXState := by
  exact if_pos h

theorem step_invalid (h : ¬ configValid s.cfg) : step s = .refused .invalidConfiguration := by
  unfold step; rw [if_neg h]

/-- A byte always has a rule: `xstate` holds no reserved code (R72). -/
theorem fetchByte_cons {b : Byte} {rest : List Byte} (h : s.rxPort = b :: rest) :
    fetchByte s = .run (decodeByte s.xstate b) { s with rxPort := rest } := by
  simp [fetchByte, h]

theorem fetchByte_nil (h : s.rxPort = []) : fetchByte s = .idle := by simp [fetchByte, h]

/-- What waits as a command is an instruction, an illegal opcode, or no command. -/
theorem decodeCommand_cases (c : Command) :
    (∃ i, decodeCommand c = .ok i) ∨ (∃ op, decodeCommand c = .error (.illegalOpcode op)) ∨
    (decodeCommand c = .error .badLength ∧ c.op.toNat = 0x11 ∧ c.d.length ≠ c.l.toNat) := by
  unfold decodeCommand
  split
  all_goals try simp [*]
  split <;> simp [*]

/-- The state that an event leaves to its rule: the inputs and the count of free choices may have changed, nothing else. -/
abbrev Consumed (s u : State) : Prop :=
  u = { s with rxPort := u.rxPort, hostPort := u.hostPort, sched := u.sched, drawCount := u.drawCount }

/-- An instruction that an event in state `u` stands for. -/
abbrev Dispatched (u : State) (i : Instr) : Prop :=
  (∃ b, i = decodeByte u.xstate b) ∨ ∃ c, decodeCommand c = .ok i

/-- What a fetch from `s` may find, and in which state. -/
def Fetches (s : State) : Fetched → Prop
  | .idle => s.rxPort = [] ∧ s.hostPort = []
  | .reset u => Consumed s u
  | .run i u => Consumed s u ∧ Dispatched u i
  | .illegal u => Consumed s u
  | .malformed => ∃ c rest, s.hostPort = c :: rest ∧ c.op.toNat = 0x11 ∧ c.d.length ≠ c.l.toNat
  | .reserved => False

theorem fetchByte_spec {u : State} (hu : Consumed s u) (hr : u.rxPort = [] → s.rxPort = [] ∧ s.hostPort = []) :
    Fetches s (fetchByte u) := by
  cases h : u.rxPort with
  | nil => rw [fetchByte_nil h]; exact hr h
  | cons b rest => rw [fetchByte_cons h]; exact ⟨by rw [hu], .inl ⟨b, rfl⟩⟩

theorem fetchCommand_spec {u : State} (hu : Consumed s u) (hh : u.hostPort = s.hostPort)
    (hr : u.hostPort = [] → s.rxPort = [] ∧ s.hostPort = []) : Fetches s (fetchCommand u) := by
  unfold fetchCommand
  cases h : u.hostPort with
  | nil => exact hr h
  | cons c rest =>
    rcases decodeCommand_cases c with ⟨i, hd⟩ | ⟨op, hd⟩ | ⟨hd, h1, h2⟩ <;> simp only [hd]
    · exact ⟨by rw [hu], .inr ⟨c, hd⟩⟩
    · show Consumed s _; rw [hu]
    · exact ⟨c, rest, by rw [← hh, h], h1, h2⟩

theorem fetchFavoured_spec (f : Bool) {u : State} (hu : Consumed s u) (hr : u.rxPort = s.rxPort)
    (hh : u.hostPort = s.hostPort) : Fetches s (fetchFavoured f u) := by
  cases f <;> simp only [fetchFavoured, if_true, Bool.false_eq_true, if_false]
  · split
    · next h => exact fetchCommand_spec hu hh (by simp [h])
    · next h => exact fetchByte_spec hu fun h' => ⟨by rw [← hr, h'], by rw [← hh, h]⟩
  · split
    · next h => exact fetchByte_spec hu (by simp [h])
    · next h => exact fetchCommand_spec hu hh fun h' => ⟨by rw [← hr, h], by rw [← hh, h']⟩

/-- Every fetch. -/
theorem fetch_spec (s : State) : Fetches s (fetch s) := by
  unfold fetch
  split
  · exact rfl
  · exact fetchFavoured_spec true (s := s) rfl rfl rfl
  · exact fetchFavoured_spec false (s := s) rfl rfl rfl
  · split
    · exact fetchFavoured_spec _ (s := s) rfl rfl rfl
    · exact fetchFavoured_spec true (s := s) rfl rfl rfl

/-- Everything a step that answers a next state can have done. -/
theorem step_next (h : step s = .next t) :
    configValid s.cfg ∧ ∃ u, Consumed s u ∧
      ((∃ i, Dispatched u i ∧ exec i u = .next t) ∨ t = powerCycle u ∨ t = illegalCommand u) := by
  by_cases hv : configValid s.cfg
  case neg => rw [step_invalid hv] at h; cases h
  refine ⟨hv, ?_⟩
  rw [step_valid hv] at h
  have hf := fetch_spec s
  revert h hf
  cases fetch s with
  | idle => intro h; cases h
  | reset u => intro h hf; cases h; exact ⟨u, hf, .inr (.inl rfl)⟩
  | run i u => intro h hf; exact ⟨u, hf.1, .inl ⟨i, hf.2, h⟩⟩
  | illegal u => intro h hf; cases h; exact ⟨u, hf, .inr (.inr rfl)⟩
  | malformed => intro h; cases h
  | reserved => intro h; cases h

end Sys2Proof.Machine
end

