-- ==== Sys2Proof/Laws/Meanings.lean ====
section
/-! SUPPORT. The small facts that the meanings of the instructions rest on: the halves of the checksum register, the number
before the expected one, the bytes staged into the mirror, the header fields and the verification, and XFR_CRCLO over its
branches. -/

namespace Sys2Proof.Machine

variable {s t : State}

/-! ### Numbers -/

/-- The high half stored, the low half kept (R118). -/
theorem setHigh_toNat (b : Byte) (c : Half) :
    (b ++ c.extractLsb' 0 8 : BitVec 16).toNat = b.toNat * 256 + c.toNat % 256 := by
  rw [BitVec.toNat_append, BitVec.extractLsb'_toNat, Nat.shiftLeft_eq, Nat.mul_comm]
  simp only [Nat.shiftRight_zero]
  rw [← Nat.two_pow_add_eq_or_of_lt (i := 8) (by omega)]

/-- The low half stored, the high half kept (R119). -/
theorem setLow_eq (b : Byte) (c : Half) :
    (c.extractLsb' 8 8 ++ b : BitVec 16) = BitVec.ofNat 16 (c.toNat / 256 * 256 + b.toNat) := by
  have h1 := c.isLt
  have h2 := b.isLt
  apply BitVec.eq_of_toNat_eq
  rw [BitVec.toNat_append, BitVec.extractLsb'_toNat, Nat.shiftLeft_eq, Nat.shiftRight_eq_div_pow, Nat.mul_comm,
    BitVec.toNat_ofNat, ← Nat.two_pow_add_eq_or_of_lt (i := 8) (by omega)]
  omega

/-- The number before `e`, modulo 256 (R128). -/
theorem eq_pred_iff (a e : Byte) : (a.toNat + 1) % 256 = e.toNat ↔ a = e - 1 := by
  have h1 := a.isLt
  have h2 := e.isLt
  rw [← BitVec.toNat_inj, BitVec.toNat_sub]
  simp
  omega

/-- The sum of R116 as a number. -/
theorem sum_eq_iff (a b : Byte) : (a.toNat + b.toNat) % 256 = 0xFF ↔ a + b = 0xFF := by
  rw [← BitVec.toNat_inj]; simp

theorem plen_le (s : State) : plen s ≤ 1024 := by unfold plen; split <;> omega

theorem plen_pos (s : State) : 0 < plen s := by unfold plen; split <;> omega

theorem Inv.payload_length (h : Inv s) : (payload s).length = plen s := by
  have h1 := h.pbuf_length
  have h2 := plen_le s
  rw [payload, List.length_take, h1, maxPayload]
  omega

/-! ### Staging (R95) -/

theorem length_splice (m d : List Byte) (o : Nat) (h : o + d.length ≤ m.length) :
    (m.take o ++ d ++ m.drop (o + d.length)).length = m.length := by
  simp; omega

theorem getElem?_splice (m d : List Byte) (o i : Nat) (h : o + d.length ≤ m.length) :
    (m.take o ++ d ++ m.drop (o + d.length))[i]? =
      if o ≤ i ∧ i < o + d.length then d[i - o]? else m[i]? := by
  simp only [List.getElem?_append, List.length_append, List.length_take, List.getElem?_take, List.getElem?_drop]
  split_ifs <;> first | omega | rfl | (congr 1; omega)

/-- Stage where its precondition holds. -/
theorem stage_ready {d : List Byte} (hv : s.fweValid = true) (h : s.offset + d.length ≤ s.cfg.pageSize) :
    stage d s = .ok { s with
      mirror := s.mirror.take s.offset ++ d ++ s.mirror.drop (s.offset + d.length)
      offset := s.offset + d.length } := by
  unfold stage; rw [if_pos ⟨hv, h⟩]

theorem stage_ok {d : List Byte} (h : stage d s = .ok t) :
    s.fweValid = true ∧ s.offset + d.length ≤ s.cfg.pageSize ∧
      t = { s with
        mirror := s.mirror.take s.offset ++ d ++ s.mirror.drop (s.offset + d.length)
        offset := s.offset + d.length } := by
  unfold stage at h
  split at h
  · next hc => cases h; exact ⟨hc.1, hc.2, rfl⟩
  · cases h

/-! ### Ends of a meaning -/

theorem finish_next {r : Except Fault State} : finish r = .next t ↔ r = .ok t := by
  cases r <;> simp [finish]

/-! ### VER_VERIFY (R77, R86) -/

/-- The number that `n` bytes make, least significant first. -/
theorem leNat_map_range (f : Nat → Byte) (n : Nat) :
    leNat ((List.range n).map f) = ((List.range n).map fun j => 2 ^ (8 * j) * (f j).toNat).sum := by
  induction n generalizing f with
  | zero => rfl
  | succ n ih =>
    rw [List.range_succ_eq_map, List.map_cons, List.map_cons, List.sum_cons, List.map_map, List.map_map]
    show (f 0).toNat + 256 * leNat ((List.range n).map (f ∘ Nat.succ)) = _
    rw [ih, ← List.sum_map_mul_left]
    simp only [Nat.mul_zero, Nat.pow_zero, Nat.one_mul, Function.comp_def]
    congr 2
    refine List.map_congr_left fun j _ => ?_
    rw [show 8 * j.succ = 8 + 8 * j by omega, Nat.pow_add, ← Nat.mul_assoc]

theorem range_reverse_map (n : Nat) : (List.range n).reverse = (List.range n).map fun j => n - 1 - j :=
  List.ext_getElem (by simp) fun i h1 h2 => by simp [List.getElem_reverse]

/-- A header field of storage bytes, in either byte order (R78). -/
theorem headerField_eq (o : ByteOrder) {off width n : Nat} (h : off + width ≤ n) (a : Nat) :
    headerField o off width (storageBytes s a n) =
      ((List.range width).map fun j =>
        match o with
        | .little => 2 ^ (8 * j) * (storageByte s (a + (off + j))).toNat
        | .big => 2 ^ (8 * (width - 1 - j)) * (storageByte s (a + (off + j))).toNat).sum := by
  have hb : ((storageBytes s a n).drop off).take width =
      (List.range width).map fun j => storageByte s (a + (off + j)) := by
    refine List.ext_getElem (by simp; omega) fun i h1 h2 => ?_
    simp [storageBytes_getElem]
  cases o
  · simp only [headerField, hb, leNat_map_range]
  · simp only [headerField, hb]
    rw [← List.map_reverse, range_reverse_map, List.map_map, leNat_map_range, ← List.sum_reverse, ← List.map_reverse,
      range_reverse_map, List.map_map]
    congr 1
    refine List.map_congr_left fun j hj => ?_
    have hj := List.mem_range.1 hj
    simp only [Function.comp_def]
    rw [show width - 1 - (width - 1 - j) = j by omega]

/-- The checksum field is the number its two bytes make: it fits 16 bits (R77). -/
theorem eq_headerChecksum_iff (l : HeaderLayout) (h : List Byte) (c : Half) :
    c = headerChecksum l h ↔ c.toNat = headerField l.order l.checksumOffset 2 h := by
  have hlt : ∀ bs : List Byte, bs.length ≤ 2 → leNat bs < 2 ^ 16 := fun bs hb => by
    match bs, hb with
    | [], _ => decide
    | [b], _ => have := b.isLt; simp [leNat]; omega
    | [b, c], _ => have := b.isLt; have := c.isLt; simp [leNat]; omega
  rw [headerChecksum, ← BitVec.toNat_inj, BitVec.toNat_ofNat, Nat.mod_eq_of_lt]
  unfold headerField
  cases l.order <;> exact hlt _ (by simp)

/-- Where the port serves its reads, verification is the condition of R92 on the storage bytes, and changes nothing. -/
theorem verifies_ready (a : Nat) (h : s.readLimit = none) :
    verifies a s = .ok (decide (InStorage s.cfg a s.cfg.header.hdrSize ∧
      headerAccepted s.cfg a (storageBytes s a s.cfg.header.hdrSize) ∧
      crc16 (storageBytes s (a + s.cfg.header.hdrSize)
          (headerSize s.cfg.header (storageBytes s a s.cfg.header.hdrSize))) =
        headerChecksum s.cfg.header (storageBytes s a s.cfg.header.hdrSize)), s) := by
  unfold verifies
  simp only
  split
  · next h1 =>
    simp only [memRead_inStorage h h1, bind, Except.bind]
    split
    · next h2 =>
      simp only [memRead_inStorage h h2.2.2.2]
      congr 2
      exact decide_eq_decide.2 (by tauto)
    · next h2 => simp [h2]
  · next h1 => simp [h1]

/-- Verification changes nothing but the reads left (R89). -/
theorem verifies_frame {a : Nat} {v : Bool} (h : verifies a s = .ok (v, t)) :
    t = { s with readLimit := t.readLimit } ∧ (s.readLimit = none → t.readLimit = none) := by
  unfold verifies at h
  simp only at h
  split at h
  case isFalse => cases h; exact ⟨rfl, id⟩
  next h1 =>
  cases hm : memRead a s.cfg.header.hdrSize s with
  | error => rw [hm] at h; cases h
  | ok q =>
    obtain ⟨hd, u⟩ := q
    obtain ⟨hp, -, -, -, h5⟩ := memRead_step (lo := 0) (hi := 0) hm
    have e := (h5 h1).1
    have hc : u.cfg = s.cfg := hp.cfg
    rw [hm] at h
    simp only [bind, Except.bind, hc] at h
    split at h
    case isFalse => cases h; exact ⟨e, hp.reads⟩
    next h2 =>
    cases hb : memRead (a + s.cfg.header.hdrSize) (headerSize s.cfg.header hd) u with
    | error => rw [hb] at h; cases h
    | ok q =>
      obtain ⟨body, w⟩ := q
      obtain ⟨hp2, -, -, -, h6⟩ := memRead_step (lo := 0) (hi := 0) hb
      have e2 := (h6 (by rw [hc]; exact h2.2.2.2)).1
      rw [hb] at h
      cases h
      exact ⟨by rw [e] at e2; exact e2, fun hr => hp2.reads (hp.reads hr)⟩

/-- XFR_CRCLO over the state it works on (R119). -/
theorem exec_xfrCrclo (b : Byte) (s : State) :
    exec (.xfrCrclo b) s = finish (
      if (checksummed b s).crcCalc ≠ (checksummed b s).crcRx then
        protocolFault (.badCrc (checksummed b s).crcRx (checksummed b s).crcCalc) (checksummed b s)
      else if s.blk = s.expectedBlk then acceptPacket (checksummed b s)
      else if s.blk = s.expectedBlk - 1 then send ack (checksummed b s)
      else protocolFault (.badSequence s.blk s.expectedBlk) (checksummed b s)) := by
  simp only [exec, execXfrCrclo, setLow_eq]; rfl

end Sys2Proof.Machine
end

