-- ==== Sys2Proof/Laws/Frames.lean ====
section
/-! SUPPORT. What the shared operations leave alone from EVERY state, with no premise; the meanings that call them, taken
apart once; and that a flush keeps the invariant. -/

namespace Sys2Proof.Machine

variable {s t u : State}

/-! ### Storage operations -/

/-- `t` is `s` but for storage, the lock, the draws and the reads left. -/
abbrev PortFrame (s t : State) : Prop :=
  t = { s with
    storage := t.storage, locked := t.locked, script := t.script, drawCount := t.drawCount, readLimit := t.readLimit }

theorem PortFrame.trans (h : PortFrame s t) (k : PortFrame t u) : PortFrame s u := by
  unfold PortFrame at *; rw [h] at k; exact k

theorem draw_frame {d : Draw} (h : draw s = .ok (d, t)) : PortFrame s t := by
  rw [(draw_ok h).1]

theorem portUnlock_frame {r : PortResult} (h : portUnlock s = .ok (r, t)) : PortFrame s t :=
  (portUnlock_step (lo := 0) (hi := 0) h).1.frame

theorem portLock_frame {r : PortResult} (h : portLock s = .ok (r, t)) : PortFrame s t :=
  (portLock_step (lo := 0) (hi := 0) h).1.frame

theorem portErase_frame {p : Nat} {r : PortResult} (h : portErase p s = .ok (r, t)) : PortFrame s t :=
  (portErase_step h).1.frame

theorem memRead_frame {a n : Nat} {bs : List Byte} (h : memRead a n s = .ok (bs, t)) : PortFrame s t :=
  (memRead_step (lo := 0) (hi := 0) h).1.frame

theorem portProgram_frame {a : Nat} {data : List Byte} {r : PortResult} (h : portProgram a data s = .ok (r, t)) :
    PortFrame s t := by
  unfold portProgram at h
  split at h
  · cases h; rfl
  · cases hd : draw s with
    | error => rw [hd] at h; cases h
    | ok q =>
      obtain ⟨d, s1⟩ := q
      rw [hd] at h
      have hs := draw_frame hd
      cases hr : d.result <;> simp [bind, Except.bind, hr] at h <;> obtain ⟨rfl, rfl⟩ := h <;>
        exact hs.trans rfl

theorem programUnits_frame : ∀ (n : Nat) {a : Nat} {data : List Byte} {s t : State} {r : PortResult},
    programUnits n a data s = .ok (r, t) → PortFrame s t
  | 0, _, _, _, _, _, h => by cases h; rfl
  | n + 1, a, data, s, t, r, h => by
    unfold programUnits at h
    cases hp : portProgram a (data.take s.cfg.progUnit) s with
    | error => rw [hp] at h; cases h
    | ok q =>
      obtain ⟨r1, s1⟩ := q
      rw [hp] at h
      cases r1
      · exact (portProgram_frame hp).trans (programUnits_frame n h)
      · cases h; exact portProgram_frame hp

theorem verifyPage_frame {c : FaultCause} (h : verifyPage s = .ok (c, t)) : PortFrame s t :=
  (verifyPage_step (lo := 0) (hi := 0) h).1.frame

theorem flushPage_frame {c : FaultCause} (h : flushPage s = .ok (c, t)) : PortFrame s t := by
  unfold flushPage at h
  cases hu : portUnlock s with
  | error => rw [hu] at h; cases h
  | ok q =>
    obtain ⟨r1, s1⟩ := q
    have h1 := portUnlock_frame hu
    rw [hu] at h
    simp only [bind, Except.bind] at h
    cases r1
    case fail => cases h; exact h1
    cases he : portErase s1.curAddr.toNat s1 with
    | error => rw [he] at h; cases h
    | ok q =>
      obtain ⟨r2, s2⟩ := q
      have h2 := h1.trans (portErase_frame he)
      rw [he] at h
      cases r2
      case fail => cases h; exact h2
      cases hp : programUnits (s2.cfg.pageSize / s2.cfg.progUnit) s2.curAddr.toNat s2.mirror s2 with
      | error => simp only [hp] at h; cases h
      | ok q =>
        obtain ⟨r3, s3⟩ := q
        have h3 := h2.trans (programUnits_frame _ hp)
        simp only [hp] at h
        cases r3
        case fail => cases h; exact h3
        exact h3.trans (verifyPage_frame h)

/-! ### FlushProc -/

/-- FlushProc from any state: it runs only where `fwe_valid = 1`, it changes only the fields named, and it never clears the
storage fault flag (R97 to R104, R145). -/
theorem flushProc_frame {r : PortResult} (h : flushProc s = .ok (r, t)) :
    s.fweValid = true ∧
    t = { s with
      curAddr := t.curAddr, offset := t.offset, mirror := t.mirror, fweFault := t.fweFault, fweCause := t.fweCause
      storage := t.storage, locked := t.locked, diag := t.diag, script := t.script, drawCount := t.drawCount
      readLimit := t.readLimit } ∧
    (s.fweFault = true → t.fweFault = true) ∧ t.locked = true := by
  unfold flushProc at h
  split at h
  case isFalse => cases h
  next hv =>
  refine ⟨hv, ?_⟩
  cases hp : flushPage s with
  | error => rw [hp] at h; cases h
  | ok q =>
    obtain ⟨c, s1⟩ := q
    have h1 := flushPage_frame hp
    rw [hp] at h
    simp only [bind, Except.bind] at h
    cases hl : portLock s1 with
    | error => rw [hl] at h; cases h
    | ok q =>
      obtain ⟨l, s2⟩ := q
      have h2 := h1.trans (portLock_frame hl)
      have hk := (portLock_step (lo := 0) (hi := 0) hl).2
      rw [hl] at h
      simp only at h
      split at h
      · cases hc : commitFlush s2 with
        | error => rw [hc] at h; cases h
        | ok s3 =>
          rw [hc] at h
          cases h
          have h3 := (commitFlush_spec hc).1
          refine ⟨?_, fun hf => ?_, ?_⟩
          · rw [h2] at h3; rw [h3]
          · rw [h3, h2]; exact hf
          · rw [h3]; exact hk
      · cases h
        exact ⟨by rw [h2]; rfl, fun _ => rfl, hk⟩

/-- A flush keeps the invariant. -/
theorem Inv.flushProc {r : PortResult} (hi : Inv s) (h : flushProc s = .ok (r, t)) : Inv t := by
  obtain ⟨hv, hfr, -, hlk⟩ := flushProc_frame h
  have hcfg : t.cfg = s.cfg := by rw [hfr]
  have hvt : t.fweValid = true := by rw [hfr]; exact hv
  have hplen : plen t = plen s := by rw [hfr]; rfl
  obtain ⟨s1, h1, -, ⟨rfl, c, hc, hn, h2⟩ | ⟨rfl, hin, hpage, hk⟩⟩ := flushProc_spec hi.flushReady h
  · have e : t.offset = s.offset ∧ t.curAddr = s.curAddr ∧ t.mirror = s.mirror ∧ t.storage = s1.storage ∧
        t.fweFault = true ∧ t.fweCause = c := by
      rw [h2]; exact ⟨by rw [h1.frame]; rfl, h1.curAddr, h1.mirror, rfl, rfl, rfl⟩
    obtain ⟨e1, e2, e3, e4, e5, e6⟩ := e
    exact
      { cfg_valid := by rw [hcfg]; exact hi.cfg_valid
        offset_le := by rw [e1, hcfg]; exact hi.offset_le
        not_init := fun hf => by rw [hvt] at hf; cases hf
        aligned := by rw [e2, hcfg]; exact hi.aligned
        mirror_length := by rw [e3, hcfg]; exact hi.mirror_length
        pbuf_length := by rw [hfr]; exact hi.pbuf_length
        pcount_le := by rw [hfr]; exact hi.pcount_le
        wait_data := by rw [hplen, hfr]; exact hi.wait_data
        wait_crc := by rw [hplen, hfr]; exact hi.wait_crc
        in_progress := by rw [hfr]; exact hi.in_progress
        locked := hlk
        fault_cause := by rw [e5, e6]; simp [hc]
        storage_wf := by rw [e4, hcfg]; exact h1.wf hi.storage_wf
        storage_range := by rw [e4, hcfg]; exact h1.range hi.storage_range }
  · obtain ⟨c1, -, c3, c4⟩ := commitFlush_spec hk
    have e4 : t.storage = s1.storage := by rw [c1]
    have e5 : t.fweFault = s.fweFault ∧ t.fweCause = s.fweCause := by rw [c1, h1.frame]; exact ⟨rfl, rfl⟩
    have e2 : t.curAddr = nextPage s1 := by rw [c1]
    exact
      { cfg_valid := by rw [hcfg]; exact hi.cfg_valid
        offset_le := by rw [c1]; exact Nat.zero_le _
        not_init := fun hf => by rw [hvt] at hf; cases hf
        aligned := by
          rw [e2, hcfg, nextPage_toNat (by rw [h1.curAddr, h1.cfg]; exact hin), h1.curAddr, h1.cfg, Nat.add_mod_right]
          exact hi.aligned
        mirror_length := by
          rw [hcfg]
          cases hm : s.cfg.mirrorAfterFlush
          · rw [(c4 (by rw [h1.cfg]; exact hm)).1, h1.cfg]
          · rw [c3 (by rw [h1.cfg]; exact hm), h1.mirror]; exact hi.mirror_length
        pbuf_length := by rw [hfr]; exact hi.pbuf_length
        pcount_le := by rw [hfr]; exact hi.pcount_le
        wait_data := by rw [hplen, hfr]; exact hi.wait_data
        wait_crc := by rw [hplen, hfr]; exact hi.wait_crc
        in_progress := by rw [hfr]; exact hi.in_progress
        locked := hlk
        fault_cause := by rw [e5.1, e5.2]; exact hi.fault_cause
        storage_wf := by rw [e4, hcfg]; exact h1.wf hi.storage_wf
        storage_range := by rw [e4, hcfg]; exact h1.range hi.storage_range }

/-! ### The meanings that flush -/

/-- XFR_EOT taken apart (R112). -/
theorem exec_xfrEot_next (h : exec .xfrEot s = .next t) :
    ∃ s1 r s2, send ack s = .ok s1 ∧
      ((0 < s.offset ∧ flushProc s1 = .ok (r, s2)) ∨ (s.offset = 0 ∧ r = .ok ∧ s2 = s1)) ∧
      t = { handleReset s2 with xstatus := statusAfterEot s2.cfg r } := by
  simp only [exec, execXfrEot] at h
  rw [finish_next] at h
  cases hs : send ack s with
  | error => rw [hs] at h; cases h
  | ok s1 =>
    rw [hs] at h
    simp only [bind, Except.bind] at h
    have ho : s1.offset = s.offset := by rw [send_ok hs]
    unfold eotFlush at h
    by_cases hlt : 0 < s1.offset
    · rw [if_pos hlt] at h
      cases hf : flushProc s1 with
      | error => rw [hf] at h; cases h
      | ok q =>
        obtain ⟨r, s2⟩ := q
        rw [hf] at h
        cases h
        exact ⟨s1, r, s2, rfl, .inl ⟨by omega, hf⟩, rfl⟩
    · rw [if_neg hlt] at h
      cases h
      exact ⟨s1, .ok, s1, rfl, .inr ⟨by omega, rfl, rfl⟩, rfl⟩

/-- The accept path taken apart (R119): before FWE_INIT; a failed room check; or a staged packet. -/
theorem acceptPacket_ok (h : acceptPacket s = .ok t) :
    (s.fweValid = false ∧ t = storageFault .notInit s) ∨
    (s.fweValid = true ∧ s.cfg.pageSize - s.offset < plen s ∧ flushProc s = .ok (.fail, t)) ∨
    (s.fweValid = true ∧ ∃ s1 s2,
      ((s.cfg.pageSize - s.offset < plen s ∧ flushProc s = .ok (.ok, s1)) ∨
        (plen s ≤ s.cfg.pageSize - s.offset ∧ s1 = s)) ∧
      stage (payload s1) s1 = .ok s2 ∧ send ack { s2 with expectedBlk := s2.expectedBlk + 1 } = .ok t) := by
  unfold acceptPacket at h
  split at h
  case isFalse => next hv => cases h; exact .inl ⟨by simpa using hv, rfl⟩
  next hv =>
  right
  unfold roomCheck at h
  by_cases hr : s.cfg.pageSize - s.offset < plen s
  · rw [if_pos hr] at h
    cases hf : flushProc s with
    | error => rw [hf] at h; cases h
    | ok q =>
      obtain ⟨r, s1⟩ := q
      rw [hf] at h
      simp only [bind, Except.bind] at h
      cases r
      · cases hst : stage (payload s1) s1 with
        | error => simp only [hst] at h; cases h
        | ok s2 => simp only [hst] at h; exact .inr ⟨hv, s1, s2, .inl ⟨hr, rfl⟩, hst, h⟩
      · cases h; exact .inl ⟨hv, hr, rfl⟩
  · rw [if_neg hr] at h
    simp only [bind, Except.bind] at h
    cases hst : stage (payload s) s with
    | error => simp only [hst] at h; cases h
    | ok s2 => simp only [hst] at h; exact .inr ⟨hv, s, s2, .inr ⟨by omega, rfl⟩, hst, h⟩

/-- What the accept path changes from any state: the FWE state, the fault record, storage, the draws and the reads left; the
ACK and the advance of `expected_blk` come together, with FWE initialised, or not at all (R119, R145). -/
theorem acceptPacket_frame (h : acceptPacket s = .ok t) :
    (t = { s with
      curAddr := t.curAddr, offset := t.offset, mirror := t.mirror, fweFault := t.fweFault, fweCause := t.fweCause
      storage := t.storage, locked := t.locked, diag := t.diag, script := t.script, drawCount := t.drawCount
      tx := t.tx, txLimit := t.txLimit, expectedBlk := t.expectedBlk, readLimit := t.readLimit }) ∧
    (s.fweFault = true → t.fweFault = true) ∧
    ((t.tx = s.tx ∧ t.expectedBlk = s.expectedBlk) ∨
      (s.fweValid = true ∧ t.tx = s.tx ++ [ack] ∧ t.expectedBlk = s.expectedBlk + 1)) := by
  rcases acceptPacket_ok h with ⟨hv, rfl⟩ | ⟨hv, hr, hf⟩ | ⟨hv, s1, s2, h1, h2, h3⟩
  · exact ⟨rfl, fun _ => rfl, .inl ⟨rfl, rfl⟩⟩
  · obtain ⟨_, e, f, _⟩ := flushProc_frame hf
    exact ⟨by rw [e], f, .inl ⟨by rw [e], by rw [e]⟩⟩
  · have e2 := (stage_ok h2).2.2
    have e3 := send_ok h3
    rcases h1 with ⟨_, h1⟩ | ⟨_, rfl⟩
    · obtain ⟨_, e, f, _⟩ := flushProc_frame h1
      exact ⟨by rw [e3, e2, e], by rw [e3, e2]; exact f, .inr ⟨hv, by rw [e3, e2, e], by rw [e3, e2, e]⟩⟩
    · exact ⟨by rw [e3, e2], by rw [e3, e2]; exact id, .inr ⟨hv, by rw [e3, e2], by rw [e3, e2]⟩⟩

/-- XFR_CRCLO taken apart: a NAK, an ACK for a duplicate, or the accept path, with the checksums and the block numbers equal
(R119). -/
theorem exec_xfrCrclo_next {b : Byte} (h : exec (.xfrCrclo b) s = .next t) :
    (∃ d, protocolFault d (checksummed b s) = .ok t) ∨ send ack (checksummed b s) = .ok t ∨
    ((checksummed b s).crcCalc = (checksummed b s).crcRx ∧ s.blk = s.expectedBlk ∧
      acceptPacket (checksummed b s) = .ok t) := by
  rw [exec_xfrCrclo, finish_next] at h
  split at h
  · exact .inl ⟨_, h⟩
  · next hc =>
    split at h
    · next hb => exact .inr (.inr ⟨Decidable.not_not.1 hc, hb, h⟩)
    · split at h
      · exact .inr (.inl h)
      · exact .inl ⟨_, h⟩

/-- FWE_FLUSH taken apart (R105). -/
theorem exec_fweFlush_next (h : exec .fweFlush s = .next t) :
    (∃ c, t = refuseCommand c s) ∨
    (s.xstatus ≠ .inProgress ∧ s.fweValid = true ∧ ∃ r u c v, flushProc s = .ok (r, u) ∧ t = respond c v u) := by
  simp only [exec, execFweFlush] at h
  split at h
  · cases h; exact .inl ⟨_, rfl⟩
  next hb =>
  split at h
  · cases h; exact .inl ⟨_, rfl⟩
  next hv =>
  rw [finish_next] at h
  cases hf : flushProc s with
  | error => rw [hf] at h; cases h
  | ok q =>
    obtain ⟨r, u⟩ := q
    rw [hf] at h
    refine .inr ⟨by simpa [busy] using hb, by simpa using hv, r, u, ?_⟩
    cases r <;> cases h <;> exact ⟨_, _, rfl, rfl⟩

/-- FWE_INIT taken apart (R93): a refusal, or the page read. -/
theorem exec_fweInit_next {a : Word} (h : exec (.fweInit a) s = .next t) :
    (∃ c, t = refuseCommand c s) ∨
    (s.xstatus ≠ .inProgress ∧ a.toNat % s.cfg.pageSize = 0 ∧ InStorage s.cfg a.toNat s.cfg.pageSize ∧
      ∃ l, (s.readLimit = none → l = none) ∧ t = { s with
        curAddr := a, offset := 0, mirror := storageBytes s a.toNat s.cfg.pageSize
        fweValid := true, fweFault := false, fweCause := .none, resp := s.resp ++ [⟨.ok, 0⟩]
        readLimit := l }) := by
  simp only [exec, execFweInit] at h
  split at h
  · cases h; exact .inl ⟨_, rfl⟩
  next hb =>
  split at h
  · cases h; exact .inl ⟨_, rfl⟩
  next ha =>
  split at h
  · cases h; exact .inl ⟨_, rfl⟩
  next hin =>
  rw [Decidable.not_not] at hin
  cases hm : memRead a.toNat s.cfg.pageSize { s with curAddr := a, offset := 0 } with
  | error => simp only [loadMirror, hm, bind, Except.bind, finish] at h; cases h
  | ok q =>
    obtain ⟨bs, u⟩ := q
    obtain ⟨hp, -, -, -, hb5⟩ := memRead_step (lo := 0) (hi := 0) hm
    obtain ⟨e, rfl⟩ := hb5 hin
    simp only [loadMirror, hm, bind, Except.bind, finish] at h
    cases h
    exact .inr ⟨by simpa [busy] using hb, by simpa using ha, hin, u.readLimit, hp.reads, by rw [e]; rfl⟩

/-- VER_VERIFY taken apart (R86, R89): it answers `OK`, and only the reads left may change beside the response. -/
theorem exec_verVerify_next {a : Word} (h : exec (.verVerify a) s = .next t) :
    ∃ v l, (s.readLimit = none → l = none) ∧
      t = { s with resp := s.resp ++ [⟨.ok, v⟩], readLimit := l } := by
  rw [exec, execVerVerify, finish_next] at h
  cases hv : verifies a.toNat s with
  | error => rw [hv] at h; cases h
  | ok q =>
    obtain ⟨v, u⟩ := q
    rw [hv] at h
    cases h
    obtain ⟨e, hn⟩ := verifies_frame hv
    exact ⟨if v then 1 else 0, u.readLimit, hn, by rw [e]; rfl⟩

/-- FWE_STAGE taken apart (R96): a refusal, or the bytes staged. -/
theorem exec_fweStage_next {l : Half} {d : List Byte} (h : exec (.fweStage l d) s = .next t) :
    (∃ c, t = refuseCommand c s) ∨
    (s.xstatus ≠ .inProgress ∧ s.fweValid = true ∧ s.offset + d.length ≤ s.cfg.pageSize ∧
      t = { s with
        mirror := s.mirror.take s.offset ++ d ++ s.mirror.drop (s.offset + d.length)
        offset := s.offset + d.length
        resp := s.resp ++ [⟨.ok, BitVec.ofNat 32 (s.offset + d.length)⟩] }) := by
  simp only [exec, execFweStage] at h
  split at h
  · cases h; exact .inl ⟨_, rfl⟩
  next hb =>
  split at h
  · cases h; exact .inl ⟨_, rfl⟩
  split at h
  · cases h; exact .inl ⟨_, rfl⟩
  rw [finish_next] at h
  cases hst : stage d s with
  | error => rw [hst] at h; cases h
  | ok s1 =>
    obtain ⟨h1, h2, h3⟩ := stage_ok hst
    rw [hst, h3] at h
    cases h
    exact .inr ⟨by simpa [busy] using hb, h1, h2, rfl⟩

/-- XFR_BLKINV taken apart (R116). -/
theorem exec_xfrBlkinv_next {b : Byte} (h : exec (.xfrBlkinv b) s = .next t) :
    (s.blk + b = 0xFF ∧ t = { s with blkInv := b, pcount := 0, xstate := .waitData }) ∨
    (s.blk + b ≠ 0xFF ∧ protocolFault (.badComplement s.blk b) { s with blkInv := b } = .ok t) := by
  simp only [exec, execXfrBlkinv] at h
  split at h
  · next hs => cases h; exact .inl ⟨hs, rfl⟩
  · next hs => exact .inr ⟨hs, finish_next.1 h⟩

end Sys2Proof.Machine
end

