-- ==== Sys2Proof/Laws/PerInstr.lean ====
section
/-! SUPPORT. Per instruction: its encoding matches the `match` and `mask` of its own row of spec/opcode_table.json. -/

namespace Sys2Proof.Laws

/-- The first word of an encoding: the 11-bit event, or the opcode. -/
def MatchesRow.word (i : Instr) : Nat :=
  match encode i with
  | .event e => e.toNat
  | .command c => c.op.toNat

/-- `match` and `mask` of the row, read from spec/opcode_table.json. -/
def MatchesRow.row : Instr → Nat × Nat
  | .xfrSoh => (0x1, 0x7FF)
  | .xfrStx => (0x2, 0x7FF)
  | .xfrEot => (0x4, 0x7FF)
  | .xfrCan => (0x18, 0x7FF)
  | .xfrNoise _ => (0x0, 0x700)
  | .xfrBlknum _ => (0x100, 0x700)
  | .xfrBlkinv _ => (0x200, 0x700)
  | .xfrData _ => (0x300, 0x700)
  | .xfrCrchi _ => (0x400, 0x700)
  | .xfrCrclo _ => (0x500, 0x700)
  | .xfrStart => (0x01, 0xFF)
  | .xfrProbe => (0x02, 0xFF)
  | .rdreg _ => (0x03, 0xFF)
  | .fweInit _ => (0x10, 0xFF)
  | .fweStage _ _ => (0x11, 0xFF)
  | .fweFlush => (0x12, 0xFF)
  | .verVerify _ => (0x20, 0xFF)

/-- The word under the mask is the match. -/
def MatchesRow.Statement (i : Instr) : Prop :=
  MatchesRow.word i &&& (MatchesRow.row i).2 = (MatchesRow.row i).1

theorem MatchesRow.xfrSoh : MatchesRow.Statement .xfrSoh := rfl
theorem MatchesRow.xfrStx : MatchesRow.Statement .xfrStx := rfl
theorem MatchesRow.xfrEot : MatchesRow.Statement .xfrEot := rfl
theorem MatchesRow.xfrCan : MatchesRow.Statement .xfrCan := rfl

theorem MatchesRow.xfrNoise (b : Byte) : MatchesRow.Statement (.xfrNoise b) := by
  revert b; unfold MatchesRow.Statement; decide

theorem MatchesRow.xfrBlknum (b : Byte) : MatchesRow.Statement (.xfrBlknum b) := by
  revert b; unfold MatchesRow.Statement; decide

theorem MatchesRow.xfrBlkinv (b : Byte) : MatchesRow.Statement (.xfrBlkinv b) := by
  revert b; unfold MatchesRow.Statement; decide

theorem MatchesRow.xfrData (b : Byte) : MatchesRow.Statement (.xfrData b) := by
  revert b; unfold MatchesRow.Statement; decide

theorem MatchesRow.xfrCrchi (b : Byte) : MatchesRow.Statement (.xfrCrchi b) := by
  revert b; unfold MatchesRow.Statement; decide

theorem MatchesRow.xfrCrclo (b : Byte) : MatchesRow.Statement (.xfrCrclo b) := by
  revert b; unfold MatchesRow.Statement; decide

theorem MatchesRow.xfrStart : MatchesRow.Statement .xfrStart := rfl
theorem MatchesRow.xfrProbe : MatchesRow.Statement .xfrProbe := rfl
theorem MatchesRow.rdreg (n : Byte) : MatchesRow.Statement (.rdreg n) := by
  simp [MatchesRow.Statement, MatchesRow.word, MatchesRow.row, encode, Command.bare]
theorem MatchesRow.fweInit (a : Word) : MatchesRow.Statement (.fweInit a) := by
  simp [MatchesRow.Statement, MatchesRow.word, MatchesRow.row, encode, Command.bare]
theorem MatchesRow.fweStage (l : Half) (d : List Byte) : MatchesRow.Statement (.fweStage l d) := by
  simp [MatchesRow.Statement, MatchesRow.word, MatchesRow.row, encode, Command.bare]
theorem MatchesRow.fweFlush : MatchesRow.Statement .fweFlush := rfl
theorem MatchesRow.verVerify (a : Word) : MatchesRow.Statement (.verVerify a) := by
  simp [MatchesRow.Statement, MatchesRow.word, MatchesRow.row, encode, Command.bare]

end Sys2Proof.Laws
end

