-- ==== Sys2Proof/Laws/Script.lean ====
section
/-! SUPPORT. The storage operations under a script of the oracle: what each does where the next draw succeeds with no silent
error, and where it fails with given bytes (20_memory.md R46 to R49). -/

namespace Sys2Proof.Machine

variable {s t : State}

theorem draw_script {d : Draw} {rest : List ScriptEntry} (h : s.script = .draw d :: rest) :
    draw s = .ok (d, { s with script := rest, drawCount := s.drawCount + 1 }) := by
  simp [draw, h]

theorem portUnlock_script {d : Draw} {rest : List ScriptEntry} (h : s.script = .draw d :: rest) :
    portUnlock s = .ok (d.result, { s with
      script := rest, drawCount := s.drawCount + 1
      locked := match d.result with
        | .ok => false
        | .fail => s.locked }) := by
  unfold portUnlock
  rw [draw_script h]
  cases hr : d.result <;> simp [bind, Except.bind, hr]

theorem portLock_script {d : Draw} {rest : List ScriptEntry} (h : s.script = .draw d :: rest) :
    portLock s = .ok (d.result, { s with script := rest, drawCount := s.drawCount + 1, locked := true }) := by
  unfold portLock; rw [draw_script h]; rfl

/-- The bytes a draw lists are the bytes drawn. -/
theorem drawnBytes_listed (r : PortResult) (bs : List Byte) (mis : List (Option Byte)) (k n : Nat) (h : bs.length = n) :
    drawnBytes ⟨r, bs, mis⟩ k n = bs := by
  refine List.ext_getElem (by simp [h]) fun i h1 h2 => ?_
  simp [drawnBytes, h2]

/-- An erase that is refused before it draws (R47). -/
theorem portErase_refused {p : Nat} (h : s.locked = true ∨ p % s.cfg.pageSize ≠ 0 ∨ ¬ Erasable s.cfg p) :
    portErase p s = .ok (.fail, s) := by
  unfold portErase; rw [if_pos h]

theorem portErase_okDraw {p : Nat} {rest : List ScriptEntry} (h : s.script = okDraw :: rest) (hl : s.locked = false)
    (ha : p % s.cfg.pageSize = 0) (hin : Erasable s.cfg p) :
    portErase p s = .ok (.ok, writeStorage p (List.replicate s.cfg.pageSize s.cfg.erasedByte)
      { s with script := rest, drawCount := s.drawCount + 1 }) := by
  unfold portErase
  rw [if_neg (fun h => h.elim (by simp [hl]) (·.elim (· ha) (· hin))), draw_script h]
  rfl

theorem portErase_failDraw {p : Nat} {bs : List Byte} {rest : List ScriptEntry} (h : s.script = failDraw bs :: rest)
    (hb : bs.length = s.cfg.pageSize) (hl : s.locked = false) (ha : p % s.cfg.pageSize = 0)
    (hin : Erasable s.cfg p) :
    portErase p s = .ok (.fail, writeStorage p bs { s with script := rest, drawCount := s.drawCount + 1 }) := by
  unfold portErase
  rw [if_neg (fun h => h.elim (by simp [hl]) (·.elim (· ha) (· hin))), draw_script h]
  simp only [bind, Except.bind, drawnBytes_listed _ _ _ _ _ hb]

theorem portProgram_failDraw {a : Nat} {data bs : List Byte} {rest : List ScriptEntry} (h : s.script = failDraw bs :: rest)
    (hb : bs.length = s.cfg.progUnit) (hl : s.locked = false)
    (ha : a % s.cfg.progUnit = 0) (hin : InStorage s.cfg a s.cfg.progUnit) :
    portProgram a data s =
      .ok (.fail, writeStorage a bs { s with script := rest, drawCount := s.drawCount + 1 }) := by
  unfold portProgram
  rw [if_neg (by simp [hl, ha, hin.1, hin.2]), draw_script h]
  simp only [bind, Except.bind, drawnBytes_listed _ _ _ _ _ hb]

/-- A script that starts with `k` draws that succeed with no silent error. -/
theorem okDraws_script (k : Nat) (rest : List ScriptEntry) (tail : OracleTail) :
    OkDraws k (fun j => List.replicate (k - j) okDraw ++ rest) tail := fun j hj u h _ => by
  simp only at h
  rw [show k - j = k - (j + 1) + 1 by omega, List.replicate_succ, List.cons_append] at h
  exact ⟨[], draw_script h⟩

end Sys2Proof.Machine
end

