-- ==== Sys2Proof/Tests/Slice0.lean ====
section
/-! SUPPORT. The model's own tests: well-formedness, words written out from the encoding tables, the vectors of
95_test_vectors.md, one step each; and for each obligation that has hypotheses a witness that meets them. -/

open Sys2Proof Sys2Proof.Machine

namespace Sys2Proof.Tests

/-! ### Helpers -/

/-- Whether the outcome is a next state of which `p` holds. -/
def nextHas (p : State → Bool) : Host.Outcome State Fault Refusal → Bool
  | .next t => p t
  | _ => false

/-- Whether the agent is stuck at a port (R50). -/
def stuck : Host.Outcome State Fault Refusal → Bool
  | .fault .portNeverReady => true
  | _ => false

/-- `RDREG n` on `t` reads `v` (R36). -/
def reads (n : Byte) (v : Word) (t : State) : Bool := registerView t n = some v

/-- The state that 95_test_vectors.md calls `start`. -/
def start : State := { State.reset with fweValid := true, curAddr := 0x08004400, mirror := List.replicate 1024 0xFF }

/-- A packet of 128 bytes `v` received up to the last checksum byte; `crcHi` is the high byte received. -/
def received (n v crcHi : Byte) : State :=
  { start with
    xstate := .waitCrcLow, xstatus := .inProgress, blk := n, blkInv := 0xFF - n, pcount := 128
    pbuf := List.replicate 1024 v, crcRx := (crcHi ++ 0#8 : BitVec 16) }

/-- A page of eight bytes, for the flush alone: small enough to run in the kernel. It is no valid configuration. -/
def smallPage : Config := { Config.exampleColumn with pageSize := 8 }

/-- Eight staged bytes to flush, under the fault-free oracle. -/
def smallFlush (script : List ScriptEntry) : State :=
  { start with cfg := smallPage, mirror := [1, 2, 3, 4, 5, 6, 7, 8], offset := 8, script := script, tail := .faultFree }

/-- The example column with its storage at the top of the address space: the last page ends at 2^32. -/
def topPage : Config := { Config.exampleColumn with storageBase := 0xFFFF0000, updateBase := 0xFFFF4000 }

/-- The example column with the other mirror policy and the other program semantics. -/
def keepPage : Config := { Config.exampleColumn with mirrorAfterFlush := .keep, programSemantics := .andBits }

/-- The header of section 3 of 95_test_vectors.md with the size byte `n`, followed by "123456789", at slot A. -/
def image (n : Byte) : State :=
  writeStorage 0x08004400 ([0x3C, 0xC3, 0xA5, 0x5A, n, 0, 0, 0, 1, 0, 0, 0, 0xC3, 0x31, 0, 0] ++
    [0x31, 0x32, 0x33, 0x34, 0x35, 0x36, 0x37, 0x38, 0x39]) State.reset

/-- `image 9` for a build whose header is big-endian (R78), with the size before the magic (notes/assumptions/24.md). -/
def bigEndianImage : State :=
  writeStorage 0x08004400 ([0, 0, 0, 9, 0x5A, 0xA5, 0xC3, 0x3C, 0, 0, 0, 1, 0x31, 0xC3, 0, 0] ++
    [0x31, 0x32, 0x33, 0x34, 0x35, 0x36, 0x37, 0x38, 0x39]) { State.reset with
      cfg := { Config.exampleColumn with
        header := { HeaderLayout.standard with order := .big, magicOffset := 4, sizeOffset := 0 } } }

/-! ### Well-formedness (R67, R73) -/

theorem test_noise_refuses_soh : (Instr.xfrNoise 0x01).wellFormed = false := by decide
theorem test_noise_refuses_stx : (Instr.xfrNoise 0x02).wellFormed = false := by decide
theorem test_noise_refuses_eot : (Instr.xfrNoise 0x04).wellFormed = false := by decide
theorem test_noise_refuses_can : (Instr.xfrNoise 0x18).wellFormed = false := by decide
theorem test_noise_accepts_ack : (Instr.xfrNoise 0x06).wellFormed = true := by decide
theorem test_stage_refuses_short_data : (Instr.fweStage 2 [0x61]).wellFormed = false := by decide
theorem test_stage_refuses_long_data : (Instr.fweStage 0 [0x61]).wellFormed = false := by decide

/-! ### Words written out from spec/opcode_table.json, R67, R73 and R75 -/

theorem test_decode_events :
    decodeEvent 0b00000000001 = .ok .xfrSoh ∧ decodeEvent 0b00000000010 = .ok .xfrStx ∧
    decodeEvent 0b00000000100 = .ok .xfrEot ∧ decodeEvent 0b00000011000 = .ok .xfrCan ∧
    decodeEvent 0b00001000011 = .ok (.xfrNoise 0x43) ∧ decodeEvent 0b00100000001 = .ok (.xfrBlknum 0x01) ∧
    decodeEvent 0b01011111110 = .ok (.xfrBlkinv 0xFE) ∧ decodeEvent 0b01100010001 = .ok (.xfrData 0x11) ∧
    decodeEvent 0b10000010010 = .ok (.xfrCrchi 0x12) ∧ decodeEvent 0b10101001011 = .ok (.xfrCrclo 0x4B) := by decide

/-- R72: the control bytes have no meaning under a reserved state code. -/
theorem test_decode_reserved :
    decodeEvent 0b11000000001 = .error .reservedState ∧ decodeEvent 0b11111111111 = .error .reservedState := by decide

/-- The encodings of the programs P1 and P6. -/
theorem test_decode_commands :
    decodeBytes [0x01] = .ok (.xfrStart, []) ∧ decodeBytes [0x02] = .ok (.xfrProbe, []) ∧
    decodeBytes [0x03, 0x06] = .ok (.rdreg 6, []) ∧
    decodeBytes [0x10, 0x00, 0x44, 0x00, 0x08] = .ok (.fweInit 0x08004400, []) ∧
    decodeBytes [0x11, 0x09, 0x00, 0x31, 0x32, 0x33, 0x34, 0x35, 0x36, 0x37, 0x38, 0x39] =
      .ok (.fweStage 9 [0x31, 0x32, 0x33, 0x34, 0x35, 0x36, 0x37, 0x38, 0x39], []) ∧
    decodeBytes [0x12] = .ok (.fweFlush, []) ∧
    decodeBytes [0x20, 0x00, 0x84, 0x00, 0x08] = .ok (.verVerify 0x08008400, []) := by decide

/-- V-CMD-29, and command strings that end early. -/
theorem test_decode_refuses :
    decodeBytes [0x13] = .error (.illegalOpcode 0x13) ∧ decodeBytes [0xFF] = .error (.illegalOpcode 0xFF) ∧
    decodeBytes [0x10, 0x00, 0x44] = .error .truncated ∧ decodeBytes [0x11, 0x02, 0x00, 0x61] = .error .truncated := by
  decide

/-- The first step after reset runs the word placed for it. -/
theorem test_fetch_word :
    nextHas (reads 0 0x11) (step (State.reset.withFetchWord 16 0x001)) = true ∧
    nextHas (fun t => t.resp = [⟨.notInit, 0⟩]) (step (State.reset.withFetchWord 8 0x12)) = true := by decide

/-! ### CRC16 (V-CRC-3, V-CRC-4, V-CRC-6, V-CRC-8, V-CRC-15) -/

theorem test_crc_bytes : crc16 [0x01] = 0x1021 ∧ crc16 [0xFF] = 0x1EF0 ∧ crc16 [0x41, 0x00] = 0x3EFD := by
  decide +kernel

theorem test_crc_check_string :
    crc16 [0x31, 0x32, 0x33, 0x34, 0x35, 0x36, 0x37, 0x38, 0x39] = 0x31C3 := by decide +kernel

theorem test_crc_counting_bytes : crc16 ((List.range 128).map (BitVec.ofNat 8)) = 0xE80A := by decide +kernel

/-! ### Byte rules (section 4 of 95_test_vectors.md) -/

/-- V-BYTE-1. -/
theorem test_soh : nextHas (fun t => reads 0 0x11 t && reads 1 0x00010000 t) (exec .xfrSoh start) = true := by decide

/-- V-BYTE-2. -/
theorem test_stx : nextHas (reads 0 0x111) (exec .xfrStx start) = true := by decide

/-- V-BYTE-5. -/
theorem test_eot_with_nothing_staged :
    nextHas (fun t => reads 0 0x20 t && t.tx = [0x06] && t.drawCount = 0) (exec .xfrEot start) = true := by decide

/-- V-BYTE-9: the erase fails. -/
theorem test_eot_with_failing_erase :
    nextHas (fun t => reads 0 0x30 t && reads 4 0x08004400 t && reads 5 0x80 t && reads 6 0x23 t && t.tx = [0x06])
      (exec .xfrEot { start with offset := 0x80, script := [okDraw, failDraw [], okDraw] }) = true := by decide +kernel

/-- V-BYTE-7, the last byte. -/
theorem test_can :
    nextHas (fun t => reads 0 0x30 t && reads 1 0x00010000 t && reads 5 0x80 t)
      (exec .xfrCan { start with xstatus := .inProgress, blk := 1, blkInv := 0xFE, expectedBlk := 2, offset := 0x80 }) =
      true := by decide

/-- V-BYTE-3. -/
theorem test_noise : nextHas (fun t => reads 0 0 t && t.diag = [.noise 0x43]) (exec (.xfrNoise 0x43) start) = true := by
  decide

/-- V-BYTE-11 and V-BYTE-13, the second byte. -/
theorem test_blknum :
    nextHas (fun t => reads 0 0x12 t && reads 1 0x00010001 t)
      (exec (.xfrBlknum 0x01) { start with xstate := .waitBlockNum, xstatus := .inProgress }) = true := by decide

/-- V-BYTE-11, the third byte: `R2` is 0 again. -/
theorem test_blkinv_matching :
    nextHas (fun t => reads 0 0x13 t && reads 1 0x0001FE01 t && reads 2 0 t && t.tx = [])
      (exec (.xfrBlkinv 0xFE) { start with xstate := .waitBlockInv, xstatus := .inProgress, blk := 1, pcount := 128 }) =
      true := by decide

/-- V-BYTE-14. -/
theorem test_blkinv_mismatch :
    nextHas (fun t => reads 0 0x10 t && reads 1 0x00010101 t && t.tx = [0x15] && t.diag = [.badComplement 1 1])
      (exec (.xfrBlkinv 0x01) { start with xstate := .waitBlockInv, xstatus := .inProgress, blk := 1 }) = true := by
  decide

/-- V-BYTE-16 and V-BYTE-17. -/
theorem test_data_completes_the_payload :
    nextHas (fun t => reads 0 0x14 t && reads 2 0x80 t && t.pbuf.take 128 = List.replicate 127 0x22 ++ [0x11])
      (exec (.xfrData 0x11) { received 1 0x22 0 with xstate := .waitData, pcount := 127 }) = true := by decide +kernel

/-- V-BYTE-18. -/
theorem test_crchi :
    nextHas (fun t => reads 0 0x15 t && reads 3 0x00001200 t)
      (exec (.xfrCrchi 0x12) { received 1 0x11 0 with xstate := .waitCrcHigh }) = true := by decide

/-- V-BYTE-19. -/
theorem test_crclo_accepts :
    nextHas (fun t => reads 0 0x10 t && reads 1 0x0002FE01 t && reads 3 0x124B124B t && reads 5 0x80 t && t.tx = [0x06])
      (exec (.xfrCrclo 0x4B) (received 1 0x11 0x12)) = true := by decide +kernel

/-- V-BYTE-20. -/
theorem test_crclo_bad_checksum :
    nextHas (fun t => reads 1 0x0001FE01 t && reads 3 0x124B124C t && reads 5 0 t && t.tx = [0x15] &&
        t.diag = [.badCrc 0x124C 0x124B])
      (exec (.xfrCrclo 0x4C) (received 1 0x11 0x12)) = true := by decide +kernel

/-! ### Host commands (section 5 of 95_test_vectors.md) -/

/-- V-CMD-28. -/
theorem test_start_after_cancel :
    nextHas (fun t => reads 0 0 t && t.resp = [⟨.ok, 0⟩]) (exec .xfrStart { start with xstatus := .interrupted }) =
      true := by decide

/-- V-CMD-23. -/
theorem test_start_while_in_progress :
    nextHas (fun t => reads 0 0x11 t && t.resp = [⟨.busy, 0⟩])
      (exec .xfrStart { start with xstate := .waitBlockNum, xstatus := .inProgress }) = true := by decide

/-- V-CMD-3. -/
theorem test_probe_while_idle :
    nextHas (fun t => t.tx = [0x43] && t.resp = [⟨.ok, 1⟩]) (exec .xfrProbe State.reset) = true := by decide

/-- V-CMD-26. -/
theorem test_probe_while_in_progress :
    nextHas (fun t => t.tx = [] && t.resp = [⟨.ok, 0⟩]) (exec .xfrProbe { start with xstatus := .inProgress }) = true := by
  decide

/-- V-CMD-1, register 1. -/
theorem test_rdreg_at_reset : nextHas (fun t => t.resp = [⟨.ok, 0x00010000⟩]) (exec (.rdreg 1) State.reset) = true := by
  decide

/-- V-CMD-2. -/
theorem test_rdreg_outside_the_map :
    nextHas (fun t => t.resp = [⟨.badReg, 0⟩]) (exec (.rdreg 7) State.reset) = true := by decide

/-- V-CMD-9. -/
theorem test_init_last_page :
    nextHas (fun t => reads 4 0x0800FC00 t && reads 6 1 t && t.resp = [⟨.ok, 0⟩])
      (exec (.fweInit 0x0800FC00) State.reset) = true := by decide

/-- V-CMD-8. -/
theorem test_init_past_storage :
    nextHas (fun t => reads 6 0 t && t.resp = [⟨.range, 0⟩]) (exec (.fweInit 0x08010000) State.reset) = true := by decide

/-- V-CMD-17, the command before the flush. -/
theorem test_stage :
    nextHas (fun t => reads 5 4 t && t.mirror.take 5 = [0x77, 0x77, 0x77, 0x77, 0xFF] && t.resp = [⟨.ok, 4⟩])
      (exec (.fweStage 4 [0x77, 0x77, 0x77, 0x77]) start) = true := by decide +kernel

/-- V-CMD-4. -/
theorem test_stage_before_init :
    nextHas (fun t => t.resp = [⟨.notInit, 0⟩]) (exec (.fweStage 2 [0x61, 0x62]) State.reset) = true := by decide

/-- V-CMD-15 on the page of eight bytes: each byte lands at its address, the mirror is reloaded from the next page. With
`AndBits` it lands too, over bytes erased to 0xFF; over bytes erased to 0xF0 the page verifies as another one (R48, R101). -/
theorem test_flush_writes_the_page :
    nextHas (fun t => storageBytes t 0x080043FF 10 = [0xFF, 1, 2, 3, 4, 5, 6, 7, 8, 0xFF] && reads 4 0x08004408 t &&
        reads 5 0 t && t.mirror = List.replicate 8 0xFF && t.locked && t.resp = [⟨.ok, 0x08004408⟩])
      (exec .fweFlush (smallFlush [])) = true ∧
    nextHas (fun t => storageBytes t 0x08004400 8 = [1, 2, 3, 4, 5, 6, 7, 8] && reads 6 1 t)
      (exec .fweFlush { smallFlush [] with cfg := { smallPage with programSemantics := .andBits } }) = true ∧
    nextHas (fun t => storageBytes t 0x08004400 8 = List.replicate 8 0 && t.resp = [⟨.flushFail, 4⟩])
      (exec .fweFlush { smallFlush [] with cfg := { smallPage with programSemantics := .andBits, erasedByte := 0xF0 } }) =
      true := by decide +kernel

/-- V-CMD-22 on the page of eight bytes: erase and lock fail, the earlier cause is kept; the erased bytes are any bytes. And
the flush of a page that ends at 2^32: its erase is out of range, and nothing is written (R42). -/
theorem test_flush_keeps_the_earlier_cause :
    nextHas (fun t => storageBytes t 0x08004400 8 = List.replicate 8 0x5A && reads 4 0x08004400 t && reads 5 8 t &&
        reads 6 0x23 t && t.locked && t.resp = [⟨.flushFail, 2⟩])
      (exec .fweFlush (smallFlush [okDraw, failDraw (List.replicate 8 0x5A), failDraw []])) = true ∧
    nextHas (fun t => t.storage = [] && reads 4 0xFFFFFC00 t && reads 6 0x23 t && t.locked && t.resp = [⟨.flushFail, 2⟩])
      (exec .fweFlush { start with cfg := topPage, curAddr := 0xFFFFFC00, tail := .faultFree }) = true := by
  decide +kernel

/-- V-VER-1, and the same image under another header record. -/
theorem test_verify_accepts :
    nextHas (fun t => t.resp = [⟨.ok, 1⟩]) (exec (.verVerify 0x08004400) (image 9)) = true ∧
    nextHas (fun t => t.resp = [⟨.ok, 1⟩]) (exec (.verVerify 0x08004400) bigEndianImage) = true := by decide +kernel

/-- V-VER-5; and R87: a header that is refused costs one read, so one read left is enough. -/
theorem test_verify_refuses_another_size :
    nextHas (fun t => t.resp = [⟨.ok, 0⟩]) (exec (.verVerify 0x08004400) (image 8)) = true ∧
    nextHas (fun t => t.resp = [⟨.ok, 0⟩] && t.readLimit = some 0)
      (exec (.verVerify 0x08004400) { image 0 with readLimit := some 1 }) = true := by decide +kernel

/-- A read for which the storage port never becomes ready stops every instruction that reads (R50): the page's load, the
header's read, the body's read, the read-back and the reload. -/
theorem test_read_never_ready :
    stuck (exec (.fweInit 0x08004400) { start with readLimit := some 0 }) = true ∧
    stuck (exec (.verVerify 0x08004400) { image 9 with readLimit := some 0 }) = true ∧
    stuck (exec (.verVerify 0x08004400) { image 9 with readLimit := some 1 }) = true ∧
    stuck (exec .fweFlush { smallFlush [] with readLimit := some 0 }) = true ∧
    stuck (exec .fweFlush { smallFlush [] with readLimit := some 1 }) = true := by decide +kernel

/-! ### Witnesses: for each obligation with hypotheses, a state and operands that meet all of them together

`start_inv` and the lemmas after it carry `Inv` to the states the witnesses use. -/

theorem start_inv : Inv start where
  cfg_valid := by decide
  offset_le := by decide
  not_init := by decide
  aligned := by decide
  mirror_length := List.length_replicate
  pbuf_length := List.length_replicate
  pcount_le := by decide
  wait_data := by decide
  wait_crc := by decide
  in_progress := by decide
  locked := rfl
  fault_cause := by decide
  storage_wf := rfl
  storage_range := by intro c h; cases h

/-- `start` with a transfer in progress and `offset` bytes staged, in a state where no payload is counted yet. -/
theorem body_inv (x : XState) (hx : x = .waitStart ∨ x = .waitBlockNum ∨ x = .waitBlockInv) (o : Nat) (ho : o ≤ 1024)
    (sc : List ScriptEntry) :
    Inv { start with xstate := x, xstatus := .inProgress, offset := o, script := sc } :=
  { start_inv with
    offset_le := ho
    not_init := nofun
    wait_data := by rintro rfl; exact absurd hx (by decide)
    wait_crc := by rintro h; rcases h with rfl | rfl <;> exact absurd hx (by decide)
    in_progress := fun _ => rfl }

/-- `start`, no transfer in progress, `offset` bytes staged, over the page at `a`, with the oracle's script `sc`. -/
theorem staged_inv (a : Word) (ha : a.toNat % 1024 = 0) (o : Nat) (ho : o ≤ 1024) (sc : List ScriptEntry)
    (tl : OracleTail) : Inv { start with curAddr := a, offset := o, script := sc, tail := tl } :=
  { start_inv with
    offset_le := ho
    not_init := nofun
    aligned := ha }

/-- The page at `a` of a storage that ends at 2^32. -/
theorem top_inv (a : Word) (ha : a.toNat % 1024 = 0) (sc : List ScriptEntry) (tl : OracleTail) :
    Inv { start with cfg := topPage, curAddr := a, script := sc, tail := tl } :=
  { start_inv with
    cfg_valid := (by decide : configValid topPage)
    not_init := nofun
    aligned := ha
    storage_range := nofun }

theorem keep_inv (tl : OracleTail) : Inv { start with cfg := keepPage, tail := tl } :=
  { start_inv with cfg_valid := (by decide : configValid keepPage) }

/-- A payload under way: `k` bytes of the length that `sel` selects. -/
theorem data_inv (sel : Bool) (k : BitVec 11) (hk : k.toNat < if sel then 1024 else 128) :
    Inv { start with xstate := .waitData, xstatus := .inProgress, plenSel := sel, pcount := k } :=
  { start_inv with
    pcount_le := by show k.toNat ≤ 1024; cases sel <;> simp at hk <;> omega
    wait_data := fun _ => hk
    wait_crc := by rintro (h | h) <;> cases h
    in_progress := fun _ => rfl }

theorem received_inv (n v c : Byte) (e : Byte) (o : Nat) (ho : o ≤ 1024) :
    Inv { received n v c with expectedBlk := e, offset := o } :=
  { start_inv with
    offset_le := ho
    not_init := nofun
    pbuf_length := List.length_replicate
    pcount_le := by show (128#11).toNat ≤ 1024; decide
    wait_data := nofun
    wait_crc := fun _ => rfl
    in_progress := fun _ => rfl }

theorem witness_EncodedInstructionsDecode :
    (Instr.xfrNoise 0x43).wellFormed = true ∧ (Instr.fweStage 2 [0x61, 0x62]).wellFormed = true := by decide

theorem witness_CommandBytesDecode :
    (Instr.fweInit 0x08004400).wellFormed = true ∧
    encodeBytes (.fweInit 0x08004400) = some [0x10, 0x00, 0x44, 0x00, 0x08] := by decide

theorem witness_DecodedEventsEncodeBack : decodeEvent 0x54B = .ok (.xfrCrclo 0x4B) := by decide

/-- The edges of the reserved range. -/
theorem witness_ReservedEventsAreRejected :
    0x600 ≤ (0x600#11).toNat ∧ 0x600 ≤ (0x7FF#11).toNat ∧ (0x5FF#11).toNat < 0x600 := by decide

theorem witness_StepRunsTheDecodedInstruction_byte :
    configValid start.cfg ∧
    decodeEvent (rxEvent { start with rxPort := [0x01] }.xstate.code 0x01) = .ok .xfrSoh ∧
    { start with rxPort := [0x01], sched := [.byte] }.sched = .byte :: [] ∧
    { start with rxPort := [0x01], sched := [.command] }.hostPort = [] ∧
    { start with rxPort := [0x01] }.sched = [] := ⟨start_inv.cfg_valid, by decide, rfl, rfl, rfl⟩

theorem witness_StepRunsTheDecodedInstruction_command :
    configValid start.cfg ∧ decodeCommand (Command.bare 0x12) = .ok .fweFlush ∧
    { start with hostPort := [Command.bare 0x12], sched := [.command] }.sched = .command :: [] ∧
    { start with hostPort := [Command.bare 0x12], sched := [.byte] }.rxPort = [] ∧
    { start with hostPort := [Command.bare 0x12] }.sched = [] := ⟨start_inv.cfg_valid, by decide, rfl, rfl, rfl⟩

theorem witness_UnscheduledStepRunsEitherAgent :
    let s := { start with rxPort := [0x01], hostPort := [Command.bare 0x12] }
    configValid s.cfg ∧ s.rxPort = 0x01 :: [] ∧ s.hostPort = Command.bare 0x12 :: [] ∧ s.sched = [] ∧
    decodeEvent (rxEvent s.xstate.code 0x01) = .ok .xfrSoh ∧ decodeCommand (Command.bare 0x12) = .ok .fweFlush :=
  ⟨start_inv.cfg_valid, rfl, rfl, rfl, by decide, by decide⟩

/-- Each clause, with the opcodes at the ends of the ranges of R76. -/
theorem witness_IllegalOpcodeAnswersBadCmd :
    let s := { start with hostPort := [Command.bare 0x13] }
    configValid s.cfg ∧ s.hostPort = Command.bare 0x13 :: [] ∧
    (∀ op ∈ [(0x00 : Byte), 0x04, 0x0F, 0x13, 0x1F, 0x21, 0xFF],
      (Command.bare op).op.toNat ∉ [0x01, 0x02, 0x03, 0x10, 0x11, 0x12, 0x20]) ∧
    { s with sched := [.command] }.sched = .command :: [] ∧
    ({ s with sched := [.byte] }.sched = .byte :: [] ∧ s.rxPort = []) ∧ s.sched = [] ∧
    { s with rxPort := [0x01] }.rxPort = 0x01 :: [] ∧ decodeEvent (rxEvent s.xstate.code 0x01) = .ok .xfrSoh :=
  ⟨start_inv.cfg_valid, rfl, by decide, rfl, ⟨rfl, rfl⟩, rfl, rfl, by decide⟩

/-- Each of the three refusals is reached. -/
theorem witness_StepRefusesOnlyByName :
    step start = .refused .noStepReady ∧
    step { start with cfg := smallPage } = .refused .invalidConfiguration ∧
    step { start with hostPort := [{ Command.bare 0x11 with l := 1 }] } = .refused .malformedCommand := ⟨rfl, rfl, rfl⟩

theorem witness_PowerOnResetClearsTheBlock :
    configValid start.cfg ∧ { start with sched := [.reset] }.sched = .reset :: [] := ⟨start_inv.cfg_valid, rfl⟩

/-- The first and the last byte of storage. -/
theorem witness_ResetMeetsTheInvariant :
    configValid Config.exampleColumn ∧
    Memory.wf Config.exampleColumn.erasedByte [(0x08000000, 0x11), (0x0800FFFF, 0x22)] = true ∧
    ∀ e ∈ ([(0x08000000, 0x11), (0x0800FFFF, 0x22)] : Memory),
      Config.exampleColumn.storageBase ≤ e.1 ∧
      e.1 < Config.exampleColumn.storageBase + Config.exampleColumn.storageSize := by decide

theorem witness_StepKeepsTheInvariant :
    Inv { start with rxPort := [0x01] } ∧ ∃ t, step { start with rxPort := [0x01] } = .next t :=
  ⟨{ start_inv with }, _, rfl⟩

theorem witness_StepNeverFaults : Inv start ∧ PortsReady start := ⟨start_inv, ⟨nofun, rfl⟩, rfl⟩

theorem start_mirrorTail (x : List Byte) : MirrorTail { start with rxPort := x } := by
  intro _ _ _ _
  show List.replicate 1024 (0xFF : Byte) = (List.range 1024).map fun _ => (0xFF : Byte)
  rw [List.map_const', List.length_range]

/-- The four premises of `MirrorTail` hold as well. -/
theorem witness_StepKeepsTheMirrorTail :
    let s := { start with rxPort := [0x01] }
    Inv s ∧ MirrorTail s ∧ (∃ t, step s = .next t) ∧
    s.fweValid = true ∧ s.fweFault = false ∧ s.cfg.mirrorAfterFlush = .reload ∧
    InStorage s.cfg s.curAddr.toNat s.cfg.pageSize :=
  ⟨{ start_inv with }, start_mirrorTail _, ⟨_, rfl⟩, rfl, rfl, rfl, by decide⟩

/-- Two states that differ in every byte of `pbuf`. -/
theorem witness_UnwrittenBytesAreNeverRead :
    Inv start ∧ Inv { start with pbuf := List.replicate 1024 0x55 } ∧
    SameValues start { start with pbuf := List.replicate 1024 0x55 } ∧
    start.pbuf ≠ { start with pbuf := List.replicate 1024 0x55 }.pbuf :=
  ⟨start_inv, { start_inv with pbuf_length := List.length_replicate }, ⟨rfl, fun _ => rfl, rfl⟩,
    fun h => absurd (congrArg List.head? h) (by decide)⟩

/-- A 128-byte packet begun after a 1024-byte one, in each of the three states that the bound does not reach. -/
theorem witness_PayloadCounterCanExceedThePacketLength :
    ∀ x, x = .waitStart ∨ x = .waitBlockNum ∨ x = .waitBlockInv →
      let s := { start with xstate := x, xstatus := .inProgress, offset := 0, script := [], plenSel := false, pcount := 1024 }
      Inv s ∧ plen s < s.pcount.toNat := fun x hx =>
  have hi := body_inv x hx 0 (by decide) []
  ⟨{ hi with
    pcount_le := (by decide : (1024#11).toNat ≤ 1024)
    wait_data := by rintro rfl; exact absurd hx (by decide)
    wait_crc := by rintro h; rcases h with rfl | rfl <;> exact absurd hx (by decide) },
    (by decide : 128 < (1024#11).toNat)⟩

/-- A matching and a mismatching complement, at the ends of the range. -/
theorem witness_ComplementDecidesTheHeader :
    start.txLimit = none ∧ (start.blk.toNat + (0xFF : Byte).toNat) % 256 = 0xFF ∧
    (start.blk.toNat + (0xFE : Byte).toNat) % 256 ≠ 0xFF ∧
    ({ start with blk := 0xFF }.blk.toNat + (0x00 : Byte).toNat) % 256 = 0xFF := by decide

/-- The first byte of a payload, and the last one of either length. -/
theorem witness_DataAppendsToThePayload :
    (∀ k : BitVec 11, k = 0 ∨ k = 127 →
      Inv { start with xstate := .waitData, xstatus := .inProgress, plenSel := false, pcount := k }) ∧
    Inv { start with xstate := .waitData, xstatus := .inProgress, plenSel := true, pcount := 1023 } :=
  ⟨fun k h => data_inv false k (by rcases h with rfl | rfl <;> decide), data_inv true 1023 (by decide)⟩

theorem witness_BadChecksumIsRejected :
    (received 1 0x11 0x12).txLimit = none ∧
    (checksummed 0x4C (received 1 0x11 0x12)).crcCalc ≠ (checksummed 0x4C (received 1 0x11 0x12)).crcRx := by
  decide +kernel

/-- The last packet that still fits. -/
theorem witness_PacketInSequenceIsStaged :
    let s := { received 8 0x11 0x12 with expectedBlk := 8, offset := 896 }
    Inv s ∧ s.txLimit = none ∧ s.xstate = .waitCrcLow ∧
    (checksummed 0x4B s).crcCalc = (checksummed 0x4B s).crcRx ∧ s.blk = s.expectedBlk ∧ s.fweValid = true ∧
    s.offset + plen s ≤ s.cfg.pageSize := ⟨received_inv 8 0x11 0x12 8 896 (by decide), by decide +kernel⟩

/-- The first offset that leaves no room. -/
theorem witness_RoomCheckFlushesBeforeStaging :
    let s := { received 8 0x11 0x12 with expectedBlk := 8, offset := 897 }
    Inv s ∧ PortsReady s ∧ s.xstate = .waitCrcLow ∧
    (checksummed 0x4B s).crcCalc = (checksummed 0x4B s).crcRx ∧ s.blk = s.expectedBlk ∧ s.fweValid = true ∧
    s.cfg.pageSize < s.offset + plen s :=
  ⟨received_inv 8 0x11 0x12 8 897 (by decide), ⟨⟨nofun, rfl⟩, rfl⟩, by decide +kernel⟩

/-- Block 0 while 1 is expected, and block 255 while 0 is expected (R128). -/
theorem witness_DuplicateIsAcknowledgedNotStaged :
    (received 0 0x11 0x12).txLimit = none ∧
    (checksummed 0x4B (received 0 0x11 0x12)).crcCalc = (checksummed 0x4B (received 0 0x11 0x12)).crcRx ∧
    ((received 0 0x11 0x12).blk.toNat + 1) % 256 = (received 0 0x11 0x12).expectedBlk.toNat ∧
    ((received 255 0x11 0x12).blk.toNat + 1) % 256 =
      { received 255 0x11 0x12 with expectedBlk := 0 }.expectedBlk.toNat := by decide +kernel

theorem witness_OutOfSequencePacketIsRejected :
    let s := { received 3 0x33 0x36 with expectedBlk := 2 }
    s.txLimit = none ∧ (checksummed 0xDD s).crcCalc = (checksummed 0xDD s).crcRx ∧ s.blk ≠ s.expectedBlk ∧
    (s.blk.toNat + 1) % 256 ≠ s.expectedBlk.toNat := by decide +kernel

theorem witness_PacketBeforeInitIsAStorageFault :
    let s := { received 1 0x11 0x12 with fweValid := false }
    (checksummed 0x4B s).crcCalc = (checksummed 0x4B s).crcRx ∧ s.blk = s.expectedBlk ∧ s.fweValid = false := by
  decide +kernel

theorem witness_EotWithNothingStagedFinishes : start.txLimit = none ∧ start.offset = 0 := by decide

/-- One byte staged, and a full page. -/
theorem witness_EotFlushesTheLastPage :
    ∀ o, o = 1 ∨ o = 1024 →
      let s := { start with xstate := .waitStart, xstatus := .inProgress, offset := o, script := [failDraw []] }
      Inv s ∧ PortsReady s ∧ 0 < s.offset := by
  rintro o (rfl | rfl) <;> exact ⟨body_inv _ (.inl rfl) _ (by decide) _, ⟨⟨by decide, rfl⟩, rfl⟩, by decide⟩

theorem witness_StartBeginsAnAttempt :
    start.xstatus ≠ .inProgress ∧ { start with xstatus := .inProgress }.xstatus = .inProgress := by decide

theorem witness_ProbeIsSentOnlyWhileIdle :
    start.txLimit = none ∧ start.xstatus = .idle ∧ { start with xstatus := .finished }.xstatus ≠ .idle := by decide

/-- The first and the last page of storage. -/
theorem witness_InitLoadsThePage :
    start.readLimit = none ∧ start.xstatus ≠ .inProgress ∧ ∀ a : Word, a = 0x08000000 ∨ a = 0x0800FC00 →
      a.toNat % start.cfg.pageSize = 0 ∧ InStorage start.cfg a.toNat start.cfg.pageSize := by
  refine ⟨rfl, by decide, ?_⟩
  rintro a (rfl | rfl) <;> decide

/-- No byte into a full page, and a whole page into an empty one. -/
theorem witness_StageCopiesIntoTheMirror :
    (Inv { start with offset := 1024 } ∧ ([] : List Byte).length = (0 : Half).toNat ∧
      { start with offset := 1024 }.offset + (0 : Half).toNat ≤ start.cfg.pageSize) ∧
    (Inv start ∧ (List.replicate 1024 (0xAA : Byte)).length = (1024 : Half).toNat ∧
      start.offset + (1024 : Half).toNat ≤ start.cfg.pageSize) ∧
    start.xstatus ≠ .inProgress ∧ start.fweValid = true :=
  ⟨⟨staged_inv _ (by decide) 1024 (by decide) _ _, rfl, by decide⟩, ⟨start_inv, List.length_replicate, by decide⟩,
    by decide, rfl⟩

theorem witness_FlushCommitsOrKeepsTheHandle :
    Inv start ∧ StorageReady start ∧ start.xstatus ≠ .inProgress ∧ start.fweValid = true :=
  ⟨start_inv, ⟨nofun, rfl⟩, by decide, rfl⟩

/-- A page in the middle of storage, whose next page is in storage, and the last page; under `Keep` and `AndBits`; and the last
page of the address space whose flush can succeed. -/
theorem witness_FaultFreeFlushWritesThePage :
    (∀ a : Word, a = 0x08004400 ∨ a = 0x0800FC00 →
      let s := { start with curAddr := a, offset := 4, script := [], tail := .faultFree }
      Inv s ∧ FaultFree s ∧ ProgramsAsAsked s.cfg ∧ s.xstatus ≠ .inProgress ∧ s.fweValid = true ∧
      Erasable s.cfg s.curAddr.toNat ∧ s.cfg.mirrorAfterFlush = .reload) ∧
    (let s := { start with cfg := keepPage, tail := .faultFree }
     Inv s ∧ FaultFree s ∧ ProgramsAsAsked s.cfg ∧ s.xstatus ≠ .inProgress ∧ s.fweValid = true ∧
     Erasable s.cfg s.curAddr.toNat ∧ s.cfg.programSemantics = .andBits ∧ s.cfg.mirrorAfterFlush = .keep) ∧
    (let s := { start with cfg := topPage, curAddr := 0xFFFFF800, tail := .faultFree }
     Inv s ∧ Erasable s.cfg s.curAddr.toNat) := by
  refine ⟨?_, ⟨keep_inv _, ⟨rfl, rfl, rfl⟩, .inr rfl, by decide, rfl, by decide, rfl, rfl⟩,
    top_inv _ (by decide) _ _, by decide⟩
  rintro a (rfl | rfl) <;>
    exact ⟨staged_inv _ (by decide) 4 (by decide) _ _, ⟨rfl, rfl, rfl⟩, .inl rfl, by decide, rfl, by decide, rfl⟩

theorem witness_FailedUnlockLeavesStorage :
    let s := { start with script := [failDraw [], okDraw] }
    s.xstatus ≠ .inProgress ∧ s.fweValid = true ∧ s.script = failDraw [] :: .draw ⟨.ok, [], []⟩ :: [] := by decide

/-- The page that follows storage, the page that ends at 2^32, and a page in range. -/
theorem witness_FailedEraseStopsTheFlush :
    (let s := { start with curAddr := 0x08010000, offset := 0, script := [okDraw, okDraw], tail := .free }
     Inv s ∧ s.xstatus ≠ .inProgress ∧ s.fweValid = true ∧ s.script = okDraw :: .draw ⟨.ok, [], []⟩ :: [] ∧
     ¬ Erasable s.cfg s.curAddr.toNat) ∧
    (let s := { start with cfg := topPage, curAddr := 0xFFFFFC00, script := [okDraw, okDraw], tail := .free }
     Inv s ∧ s.script = okDraw :: .draw ⟨.ok, [], []⟩ :: [] ∧ InStorage s.cfg s.curAddr.toNat s.cfg.pageSize ∧
     ¬ Erasable s.cfg s.curAddr.toNat) ∧
    (let s := { start with
      curAddr := 0x08004400, offset := 4, script := [okDraw, failDraw (List.replicate 1024 0x5A), okDraw], tail := .free }
     Inv s ∧ s.xstatus ≠ .inProgress ∧ s.fweValid = true ∧
     s.script = okDraw :: failDraw (List.replicate 1024 0x5A) :: .draw ⟨.ok, [], []⟩ :: [] ∧
     (List.replicate 1024 (0x5A : Byte)).length = s.cfg.pageSize ∧
     Erasable s.cfg s.curAddr.toNat) :=
  ⟨⟨staged_inv _ (by decide) 0 (by decide) _ _, by decide, rfl, rfl, by decide⟩,
    ⟨top_inv _ (by decide) _ _, rfl, by decide, by decide⟩, staged_inv _ (by decide) 4 (by decide) _ _, by decide, rfl, rfl, List.length_replicate, by decide⟩

/-- The first and the last unit of the page. -/
theorem witness_FirstFailedUnitStopsTheProgramStep :
    ∀ k, k = 0 ∨ k = 511 →
      let s := { start with
        curAddr := 0x08004400, offset := 4
        script := List.replicate (2 + k) okDraw ++ failDraw [0x5A, 0x5A] :: .draw ⟨.ok, [], []⟩ :: [], tail := .free }
      Inv s ∧ s.xstatus ≠ .inProgress ∧ s.fweValid = true ∧
      Erasable s.cfg s.curAddr.toNat ∧ k < s.cfg.pageSize / s.cfg.progUnit ∧
      [(0x5A : Byte), 0x5A].length = s.cfg.progUnit := by
  rintro k (rfl | rfl) <;>
    exact ⟨staged_inv _ (by decide) 4 (by decide) _ _, by decide, rfl, by decide, by decide, rfl⟩

/-- The second byte of the last unit lands as 0x5A, where the mirror holds 0xFF. -/
theorem witness_SilentProgramErrorFailsTheVerify :
    let s := { start with
      curAddr := 0x08004400, offset := 4
      script := List.replicate (2 + 511) okDraw ++ .draw ⟨.ok, [], [none, some 0x5A]⟩ ::
        (List.replicate (512 - (511 + 1)) okDraw ++ .draw ⟨.ok, [], []⟩ :: [])
      tail := .free }
    Inv s ∧ s.readLimit = none ∧ s.xstatus ≠ .inProgress ∧ s.fweValid = true ∧
    Erasable s.cfg s.curAddr.toNat ∧ s.cfg.pageSize / s.cfg.progUnit = 512 ∧
    511 < s.cfg.pageSize / s.cfg.progUnit ∧ 1 < s.cfg.progUnit ∧
    [(none : Option Byte), some 0x5A][1]? = some (some 0x5A) ∧ s.mirror[511 * s.cfg.progUnit + 1]? ≠ some 0x5A :=
  ⟨staged_inv _ (by decide) 4 (by decide) _ _, rfl, by decide, rfl, by decide, by decide, by decide, by decide, rfl, by
    show (List.replicate 1024 (0xFF : Byte))[511 * 2 + 1]? ≠ some 0x5A
    rw [List.getElem?_replicate]; decide⟩

theorem witness_FailedLockFailsAWrittenFlush :
    let s := { start with
      curAddr := 0x08004400, offset := 4, script := List.replicate (2 + 512) okDraw ++ failDraw [] :: [], tail := .free }
    Inv s ∧ s.readLimit = none ∧ s.xstatus ≠ .inProgress ∧ s.fweValid = true ∧ ProgramsAsAsked s.cfg ∧
    Erasable s.cfg s.curAddr.toNat ∧ s.cfg.pageSize / s.cfg.progUnit = 512 :=
  ⟨staged_inv _ (by decide) 4 (by decide) _ _, rfl, by decide, rfl, .inl rfl, by decide, by decide⟩

/-- A flush whose unlock fails. -/
theorem witness_RetryLeavesStorageAsIfNothingFailed :
    let s := { start with curAddr := 0x08004400, offset := 4, script := [failDraw [], okDraw], tail := .free }
    Inv s ∧ s.xstatus ≠ .inProgress ∧ s.fweValid = true ∧ ProgramsAsAsked s.cfg ∧
    Erasable s.cfg s.curAddr.toNat ∧
    ∃ t, exec .fweFlush s = .next t ∧ t.resp = s.resp ++ [⟨.flushFail, 1⟩] :=
  ⟨staged_inv _ (by decide) 4 (by decide) _ _, by decide, rfl, .inl rfl, by decide, _, rfl, rfl⟩

/-- Each refusal's condition, at the first value that meets it. -/
theorem witness_RefusedCommandsOnlyRespond :
    { start with xstatus := .inProgress }.xstatus = .inProgress ∧ start.xstatus ≠ .inProgress ∧
    (0x08004401 : Word).toNat % start.cfg.pageSize ≠ 0 ∧
    ((0x08010000 : Word).toNat % start.cfg.pageSize = 0 ∧
      ¬ InStorage start.cfg (0x08010000 : Word).toNat start.cfg.pageSize) ∧
    ((0x07FFFC00 : Word).toNat % start.cfg.pageSize = 0 ∧
      ¬ InStorage start.cfg (0x07FFFC00 : Word).toNat start.cfg.pageSize) ∧
    State.reset.fweValid = false ∧
    (start.fweValid = true ∧ start.cfg.pageSize < start.offset + (1025 : Half).toNat) := by decide

/-- The record of R77, and a big-endian one with its fields in another order (notes/assumptions/24.md). -/
theorem witness_VerifyAcceptsExactly :
    (image 9).readLimit = none ∧ headerFits (image 9).cfg.header ∧
    (image 9).cfg.header = { HeaderLayout.standard with magic := (image 9).cfg.header.magic } ∧
    bigEndianImage.readLimit = none ∧ headerFits bigEndianImage.cfg.header ∧ bigEndianImage.cfg.header.order = .big := by
  decide

/-- V-VER-16: the same storage while a transfer is in progress. -/
theorem witness_VerifyIsPure :
    start.readLimit = none ∧ { start with xstatus := .inProgress }.readLimit = none ∧
    { start with xstatus := .inProgress }.cfg = start.cfg ∧
    { start with xstatus := .inProgress }.storage = start.storage ∧
    { start with xstatus := .inProgress }.xstatus ≠ start.xstatus ∧
    ∃ t, exec (.verVerify 0) { start with readLimit := some 1 } = .next t := ⟨rfl, rfl, rfl, rfl, by decide, _, rfl⟩

theorem witness_EveryInstructionCompletes :
    Instr.fweFlush.wellFormed = true ∧ Inv start ∧ PortsReady start := ⟨rfl, start_inv, ⟨nofun, rfl⟩, rfl⟩

theorem witness_OnlyFlushesWriteStorage :
    Inv start ∧ (∃ t, exec (.fweStage 1 [0x61]) start = .next t) ∧
    Instr.fweStage 1 [0x61] ≠ .xfrEot ∧ Instr.fweStage 1 [0x61] ≠ .fweFlush ∧
    ∀ b, Instr.fweStage 1 [0x61] ≠ .xfrCrclo b :=
  ⟨start_inv, ⟨_, rfl⟩, nofun, nofun, nofun⟩

theorem witness_BytesSentByEachRule : ∃ t, exec .xfrProbe start = .next t := ⟨_, rfl⟩

/-- Each state of the graph that counts no payload, and the three that do. -/
theorem witness_ByteRulesFollowTheTransitionGraph :
    (∀ x, x = .waitStart ∨ x = .waitBlockNum ∨ x = .waitBlockInv →
      let s := { start with xstate := x, xstatus := .inProgress, offset := 0, script := [] }
      Inv s ∧ ∃ t, exec (decodeByte s.xstate 0x01) s = .next t) ∧
    (let s := { start with xstate := .waitData, xstatus := .inProgress, plenSel := false, pcount := 127 }
     Inv s ∧ ∃ t, exec (decodeByte s.xstate 0x01) s = .next t) ∧
    (let s := { received 1 0x11 0x12 with expectedBlk := 3, offset := 0 }
     Inv s ∧ (checksummed 0x4B s).crcCalc = (checksummed 0x4B s).crcRx) := by
  refine ⟨?_, ⟨data_inv false 127 (by decide), _, rfl⟩, received_inv 1 0x11 0x12 3 0 (by decide), by decide +kernel⟩
  rintro x (rfl | rfl | rfl) <;> exact ⟨body_inv _ (by decide) 0 (by decide) [], _, rfl⟩

theorem witness_ExpectedBlockAdvancesOnlyOnAccept :
    (∃ t, exec .xfrCan { start with expectedBlk := 2 } = .next t ∧ t.expectedBlk ≠ 2) ∧
    nextHas (fun t => t.expectedBlk ≠ 1) (exec (.xfrCrclo 0x4B) (received 1 0x11 0x12)) = true :=
  ⟨⟨_, rfl, by decide⟩, by decide +kernel⟩

/-- Each premise of the three clauses. -/
theorem witness_FaultIsStickyUntilInit :
    (∃ t, exec .fweFlush { start with fweFault := true, fweCause := .erase, script := [failDraw [], okDraw] } = .next t) ∧
    (∀ a, Instr.fweFlush ≠ .fweInit a) ∧ start.fweValid = true ∧ State.reset.fweValid = false ∧
    ∃ t, exec (.fweInit 0x08004400) State.reset = .next t ∧ t.fweValid = true :=
  ⟨⟨_, rfl⟩, nofun, rfl, rfl, _, rfl, rfl⟩

/-- Each of the five writers. -/
theorem witness_StatusHasFiveWriters :
    (∃ t, exec .xfrSoh start = .next t ∧ t.xstatus ≠ start.xstatus) ∧
    (∃ t, exec .xfrStx start = .next t ∧ t.xstatus ≠ start.xstatus) ∧
    (∃ t, exec .xfrEot start = .next t ∧ t.xstatus ≠ start.xstatus) ∧
    (∃ t, exec .xfrCan start = .next t ∧ t.xstatus ≠ start.xstatus) ∧
    ∃ t, exec .xfrStart { start with xstatus := .finished } = .next t ∧ t.xstatus ≠ .finished :=
  ⟨⟨_, rfl, by decide⟩, ⟨_, rfl, by decide⟩, ⟨_, rfl, by decide⟩, ⟨_, rfl, by decide⟩, _, rfl, by decide⟩

/-- The last 128-byte packet that fits, and a 1024-byte packet into an empty page. -/
theorem witness_PacketIsReceivedInItsBytes :
    (let s := { start with offset := 896, rxPort := rxpkt false start.expectedBlk (List.replicate 128 0x11) ++ [] }
     Inv s ∧ s.txLimit = none ∧ s.xstate = .waitStart ∧ s.fweValid = true ∧
     (List.replicate 128 (0x11 : Byte)).length = 128 ∧ s.offset + 128 ≤ s.cfg.pageSize ∧ s.hostPort = [] ∧
     s.sched = []) ∧
    (let s := { start with offset := 0, rxPort := rxpkt true start.expectedBlk (List.replicate 1024 0x44) ++ [0x04] }
     Inv s ∧ s.txLimit = none ∧ s.xstate = .waitStart ∧ s.fweValid = true ∧
     (List.replicate 1024 (0x44 : Byte)).length = 1024 ∧ s.offset + 1024 ≤ s.cfg.pageSize ∧ s.hostPort = [] ∧
     s.sched = []) :=
  ⟨⟨{ staged_inv 0x08004400 (by decide) 896 (by decide) [] .free with }, rfl, rfl, rfl, List.length_replicate,
      by decide, rfl, rfl⟩,
    { staged_inv 0x08004400 (by decide) 0 (by decide) [] .free with }, rfl, rfl, rfl, List.length_replicate,
    by decide, rfl, rfl⟩

/-- A change of one bit, in a sequence of one byte. -/
theorem witness_ChecksumDetectsAChangedByte : ∃ h : 0 < [(0x41 : Byte)].length, [(0x41 : Byte)][0] ≠ 0x40 := by decide

theorem witness_SlotsLieInTheUpdateRegion : configValid Config.exampleColumn := start_inv.cfg_valid

end Sys2Proof.Tests
end

section
/-! The register state (10_state.md): what a power-on reset leaves (R39), and which instructions write `expected_blk` (R23). -/

namespace Sys2Proof.Machine

variable {s t : State}

/-! ### Reset -/

/-- A reset that stands first in the schedule is the next step (R154, R171). -/
theorem step_of_reset_scheduled {q : List Turn} (hv : configValid s.cfg) (hs : s.sched = .reset :: q) :
    step s = .next (powerCycle { s with sched := q }) := by
  have hf : fetch s = .reset { s with sched := q } := by simp [fetch, hs]
  rw [step_valid hv, hf]

/-! ### The host commands that touch no storage, taken apart -/

/-- XFR_START (R129): a refusal while a transfer runs, or the handle reset. -/
theorem exec_xfrStart_next (h : exec .xfrStart s = .next t) :
    t = refuseCommand .busy s ∨ t = respond .ok 0 { handleReset s with xstatus := .idle } := by
  simp only [exec, execXfrStart] at h
  split at h <;> cases h
  · exact .inl rfl
  · exact .inr rfl

/-- XFR_PROBE (R130): the probe byte sent in status Idle, or the response alone. -/
theorem exec_xfrProbe_next (h : exec .xfrProbe s = .next t) :
    (s.xstatus = .idle ∧ ∃ u, send probe s = .ok u ∧ t = respond .ok 1 u) ∨
    (s.xstatus ≠ .idle ∧ t = respond .ok 0 s) := by
  simp only [exec, execXfrProbe] at h
  split at h
  · next hi =>
    cases hs : send probe s with
    | error => rw [hs] at h; cases h
    | ok u => rw [hs] at h; cases h; exact .inl ⟨hi, u, rfl, rfl⟩
  · next hi => cases h; exact .inr ⟨hi, rfl⟩

/-- RDREG only responds (R131). -/
theorem exec_rdreg_next {n : Byte} (h : exec (.rdreg n) s = .next t) : ∃ c v, t = respond c v s := by
  simp only [exec, execRdreg] at h
  split at h <;> cases h
  · exact ⟨_, _, rfl⟩
  · exact ⟨_, _, rfl⟩

/-! ### `expected_blk` (R23) -/

theorem send_expectedBlk {b : Byte} (h : send b s = .ok t) : t.expectedBlk = s.expectedBlk := by
  rw [send_ok h]

theorem protocolFault_expectedBlk {d : Diag} (h : protocolFault d s = .ok t) : t.expectedBlk = s.expectedBlk := by
  rw [protocolFault_ok h]

theorem flushProc_expectedBlk {r : PortResult} (h : flushProc s = .ok (r, t)) : t.expectedBlk = s.expectedBlk := by
  rw [(flushProc_frame h).2.1]

theorem exec_xfrEot_expectedBlk (h : exec .xfrEot s = .next t) : t.expectedBlk = 1 := by
  obtain ⟨_, _, u, -, -, rfl⟩ := exec_xfrEot_next h
  exact handleReset_expectedBlk u

theorem exec_xfrStart_expectedBlk (h : exec .xfrStart s = .next t) :
    t.expectedBlk = s.expectedBlk ∨ t.expectedBlk = 1 := by
  rcases exec_xfrStart_next h with rfl | rfl
  · exact .inl (refuseCommand_expectedBlk _ s)
  · exact .inr rfl

/-- XFR_CRCLO leaves `expected_blk`, or it takes the accept path, which advances it and sends ACK (R119). -/
theorem exec_xfrCrclo_expectedBlk {b : Byte} (h : exec (.xfrCrclo b) s = .next t) :
    t.expectedBlk = s.expectedBlk ∨
    ((checksummed b s).crcCalc = (checksummed b s).crcRx ∧ s.blk = s.expectedBlk ∧ s.fweValid = true ∧
      t.expectedBlk = s.expectedBlk + 1 ∧ t.tx = s.tx ++ [ack]) := by
  rcases exec_xfrCrclo_next h with ⟨d, hf⟩ | hd | ⟨hc, hb, ha⟩
  · exact .inl ((protocolFault_expectedBlk hf).trans (checksummed_expectedBlk b s))
  · exact .inl ((send_expectedBlk hd).trans (checksummed_expectedBlk b s))
  · obtain ⟨-, -, ⟨-, he⟩ | ⟨hv, htx, he⟩⟩ := acceptPacket_frame ha
    · exact .inl he
    · exact .inr ⟨hc, hb, hv, he, htx⟩

/-- Every instruction but the three that reset the handle and XFR_CRCLO leaves `expected_blk`. -/
theorem exec_keeps_expectedBlk {i : Instr} (h : exec i s = .next t)
    (hi : i ≠ .xfrStart ∧ i ≠ .xfrEot ∧ i ≠ .xfrCan ∧ ∀ b, i ≠ .xfrCrclo b) : t.expectedBlk = s.expectedBlk := by
  obtain ⟨hstart, heot, hcan, hcrclo⟩ := hi
  cases i with
  | xfrStart => exact absurd rfl hstart
  | xfrEot => exact absurd rfl heot
  | xfrCan => exact absurd rfl hcan
  | xfrCrclo b => exact absurd rfl (hcrclo b)
  | xfrSoh | xfrStx | xfrNoise | xfrBlknum | xfrData | xfrCrchi => cases h; rfl
  | xfrBlkinv b =>
    rcases exec_xfrBlkinv_next h with ⟨-, rfl⟩ | ⟨-, hf⟩
    · rfl
    · exact (protocolFault_expectedBlk hf :)
  | xfrProbe =>
    rcases exec_xfrProbe_next h with ⟨-, u, hu, rfl⟩ | ⟨-, rfl⟩
    · exact (respond_expectedBlk _ _ u).trans (send_expectedBlk hu)
    · rfl
  | rdreg n => obtain ⟨_, _, rfl⟩ := exec_rdreg_next h; rfl
  | fweInit a => rcases exec_fweInit_next h with ⟨_, rfl⟩ | ⟨-, -, -, _, -, rfl⟩ <;> rfl
  | fweStage l d => rcases exec_fweStage_next h with ⟨_, rfl⟩ | ⟨-, -, -, rfl⟩ <;> rfl
  | fweFlush =>
    rcases exec_fweFlush_next h with ⟨_, rfl⟩ | ⟨-, -, _, u, _, _, hf, rfl⟩
    · rfl
    · exact (respond_expectedBlk _ _ u).trans (flushProc_expectedBlk hf)
  | verVerify a => obtain ⟨_, _, -, rfl⟩ := exec_verVerify_next h; rfl

/-! ### The statements -/

/-- Settles O53: `exec_keeps_expectedBlk` leaves the three resets of the handle and XFR_CRCLO's accept path. -/
theorem expectedBlockAdvancesOnlyOnAccept : Obligations.ExpectedBlockAdvancesOnlyOnAccept := by
  intro i s t h hne
  cases i with
  | xfrStart => exact .inl ⟨.inl rfl, (exec_xfrStart_expectedBlk h).resolve_left hne⟩
  | xfrEot => exact .inl ⟨.inr (.inl rfl), exec_xfrEot_expectedBlk h⟩
  | xfrCan => cases h; exact .inl ⟨.inr (.inr rfl), handleReset_expectedBlk s⟩
  | xfrCrclo b =>
    obtain ⟨hc, hb, hv, he, htx⟩ := (exec_xfrCrclo_expectedBlk h).resolve_left hne
    exact .inr ⟨b, rfl, hc, hb, hv, by rw [he]; exact BitVec.toNat_add .., htx⟩
  | _ => exact absurd (exec_keeps_expectedBlk h (by simp)) hne

/-- Settles O12: the scheduled reset is `powerCycle`, and both it and `State.powerOn` hold the reset table. -/
theorem powerOnResetClearsTheBlock : Obligations.PowerOnResetClearsTheBlock := by
  unfold Obligations.PowerOnResetClearsTheBlock
  intro Cleared
  have cleared_powerOn : ∀ c m, Cleared (State.powerOn c m) := fun c m => by simp [Cleared]
  have cleared_powerCycle : ∀ s, Cleared (powerCycle s) := fun s => by simp [Cleared]
  refine ⟨cleared_powerOn _ _, fun s q hv hs => ⟨powerCycle { s with sched := q }, ?_, cleared_powerCycle _, ?_⟩⟩
  · exact step_of_reset_scheduled hv hs
  · simp

end Sys2Proof.Machine
end

section
/-! The byte rule that an RXB event selects (30_encoding.md R67). -/

namespace Sys2Proof.Machine

/-- The rows of state 0, a control byte told by its number (R67). -/
theorem decodeWaitStart_eq_toNat (b : Byte) :
    decodeWaitStart b =
      if b.toNat = 0x01 then .xfrSoh else if b.toNat = 0x02 then .xfrStx else if b.toNat = 0x04 then .xfrEot
        else if b.toNat = 0x18 then .xfrCan else .xfrNoise b := by
  simp [decodeWaitStart, BitVec.toNat_eq]

/-- Settles O4: each of the six codes is a state's, so `decodeEvent_rxEvent` gives that state's rule. -/
theorem eventTableSelectsTheRule : Obligations.EventTableSelectsTheRule := fun b =>
  ⟨(decodeEvent_rxEvent .waitStart b).trans (congrArg _ (decodeWaitStart_eq_toNat b)),
    decodeEvent_rxEvent .waitBlockNum b,
    decodeEvent_rxEvent .waitBlockInv b,
    decodeEvent_rxEvent .waitData b,
    decodeEvent_rxEvent .waitCrcHigh b,
    decodeEvent_rxEvent .waitCrcLow b⟩

end Sys2Proof.Machine
end

section
/-! The flash write engine's failures (42_flash_write_engine.md): what a recorded cause makes of FlushProc and of FWE_FLUSH
(R98, R102, R104, R105). -/

namespace Sys2Proof.Machine

variable {s u t : State}

/-! ### FlushProc that fails -/

/-- A failed unlock ends FlushProc's work on the page: no erase or program is issued (R98). -/
theorem flushPage_of_portUnlock_fail (hu : portUnlock s = .ok (.fail, u)) : flushPage s = .ok (.unlock, u) := by
  unfold flushPage; rw [hu]; rfl

/-- A cause recorded before the lock step is kept, whatever the lock returns (R102). -/
theorem lockCause_of_ne_none {c : FaultCause} (hc : c ≠ .none) (l : PortResult) : lockCause c l = c := by
  cases c with
  | none => exact absurd rfl hc
  | _ => rfl

/-- FlushProc after work on the page that recorded a cause: the lock step, then the storage fault (R102, R104). -/
theorem flushProc_of_flushPage_fail {c : FaultCause} {l : PortResult} (hv : s.fweValid = true)
    (hp : flushPage s = .ok (c, u)) (hc : c ≠ .none) (hl : portLock u = .ok (l, t)) :
    flushProc s = .ok (.fail, storageFault c t) := by
  unfold flushProc
  rw [if_pos hv, hp]
  simp only [bind, Except.bind, hl, lockCause_of_ne_none hc l]

/-- FWE_FLUSH answers a failed FlushProc with the cause's number (R105). -/
theorem exec_fweFlush_of_flushProc_fail (hb : s.xstatus ≠ .inProgress) (hv : s.fweValid = true)
    (hf : flushProc s = .ok (.fail, u)) :
    exec .fweFlush s = .next (respond .flushFail ((causeCode u.fweCause).setWidth 32) u) := by
  simp only [exec, execFweFlush]
  rw [if_neg (by simpa [busy] using hb), if_neg (by simp [hv]), hf]
  rfl

/-! ### The statements -/

/-- Settles O40: the failed unlock records FC_UNLOCK with storage untouched, and the lock step keeps that cause. -/
theorem failedUnlockLeavesStorage : Obligations.FailedUnlockLeavesStorage := by
  intro s bs l rest hb hv hs
  have hp := flushPage_of_portUnlock_fail (portUnlock_script hs)
  have hf := flushProc_of_flushPage_fail hv hp (by decide) (portLock_script rfl)
  exact exec_fweFlush_of_flushProc_fail hb hv hf

end Sys2Proof.Machine
end

section
/-! The transfer protocol (43_transfer_protocol.md): the byte rules that start, fill and end a packet (R110 to R122), and the
host commands XFR_START, XFR_PROBE and RDREG (R129 to R131). -/

namespace Sys2Proof.Machine

variable {s : State}

/-! ### The header's complement -/

/-- The byte that makes a sum of 0xFF is the bitwise NOT (R70). -/
theorem add_eq_ones_iff (a b : Byte) : a + b = 0xFF ↔ b = ~~~ a := by
  show a + b = BitVec.allOnes 8 ↔ b = ~~~ a
  rw [← BitVec.add_not_self a]
  exact BitVec.add_right_inj a

theorem exec_xfrBlkinv_match {b : Byte} (h : s.blk + b = 0xFF) :
    exec (.xfrBlkinv b) s = .next { s with blkInv := b, pcount := 0, xstate := .waitData } := if_pos h

theorem exec_xfrBlkinv_mismatch {b : Byte} (h : s.blk + b ≠ 0xFF) :
    exec (.xfrBlkinv b) s = finish (protocolFault (.badComplement s.blk b) { s with blkInv := b }) := if_neg h

/-! ### Appending to the payload buffer -/

/-- Once byte `i` is set, the first `i + 1` bytes are the `i` before it and the new byte. -/
theorem take_succ_set {l : List Byte} {i : Nat} (b : Byte) (h : i < l.length) :
    (l.set i b).take (i + 1) = l.take i ++ [b] := by
  rw [List.take_succ_eq_append_getElem (by simpa using h), List.getElem_set_self,
    List.take_set_of_le (Nat.le_refl i)]

/-- In WaitData the payload counter has room for one more: it is below `plen` (R25, R29). -/
theorem Inv.pcount_succ (hi : Inv s) (hx : s.xstate = .waitData) : (s.pcount + 1).toNat = s.pcount.toNat + 1 := by
  have hlt := hi.wait_data hx
  have hle := plen_le s
  exact BitVec.toNat_add_of_lt (show s.pcount.toNat + 1 < 2048 by omega)

/-- In WaitData the byte to come has its place in `pbuf` (R26, R29). -/
theorem Inv.pcount_lt_pbuf (hi : Inv s) (hx : s.xstate = .waitData) : s.pcount.toNat < s.pbuf.length := by
  have hlt := hi.wait_data hx
  have hle := plen_le s
  rw [hi.pbuf_length, maxPayload]
  omega

/-! ### XFR_CRCLO with a right checksum -/

/-- The number before `e` is another one. -/
theorem sub_one_ne (e : Byte) : e - 1 ≠ e := by bv_omega

/-- The duplicate's branch of XFR_CRCLO (R122). -/
theorem exec_xfrCrclo_duplicate {b : Byte} (hc : (checksummed b s).crcCalc = (checksummed b s).crcRx)
    (hb : s.blk = s.expectedBlk - 1) : exec (.xfrCrclo b) s = finish (send ack (checksummed b s)) := by
  have hne : s.blk ≠ s.expectedBlk := hb ▸ sub_one_ne s.expectedBlk
  rw [exec_xfrCrclo, if_neg (not_not_intro hc), if_neg hne, if_pos hb]

/-! ### The host commands of XFR -/

theorem busy_eq_true_iff : busy s = true ↔ s.xstatus = .inProgress := decide_eq_true_iff

theorem exec_xfrStart_busy (h : s.xstatus = .inProgress) : exec .xfrStart s = .next (refuseCommand .busy s) :=
  if_pos (busy_eq_true_iff.2 h)

theorem exec_xfrStart_free (h : s.xstatus ≠ .inProgress) :
    exec .xfrStart s = .next (respond .ok 0 { handleReset s with xstatus := .idle }) :=
  if_neg (mt busy_eq_true_iff.1 h)

theorem exec_xfrProbe_idle (h : s.xstatus = .idle) (htx : s.txLimit = none) :
    exec .xfrProbe s = .next (respond .ok 1 { s with tx := s.tx ++ [probe] }) := by
  simp only [exec, execXfrProbe]
  rw [if_pos h, send_ready _ htx]
  rfl

theorem exec_xfrProbe_notIdle (h : s.xstatus ≠ .idle) : exec .xfrProbe s = .next (respond .ok 0 s) := if_neg h

/-! ### The register map (R36) -/

/-- Two fields side by side as a number. -/
theorem append_toNat {m n : Nat} (x : BitVec m) (y : BitVec n) : (x ++ y).toNat = 2 ^ n * x.toNat + y.toNat := by
  rw [BitVec.toNat_append, Nat.shiftLeft_eq, Nat.mul_comm]
  exact (Nat.two_pow_add_eq_or_of_lt y.isLt _).symm

/-- Register 0: `xstate`, `xstatus` and `plen_sel` at bits 0, 4 and 8. -/
theorem statusWord_toNat (p : Bool) (u : BitVec 2) (x : BitVec 3) :
    (0#23 ++ BitVec.ofBool p ++ 0#2 ++ u ++ 0#1 ++ x : BitVec 32).toNat =
      x.toNat + 2 ^ 4 * u.toNat + 2 ^ 8 * p.toNat := by
  simp only [append_toNat, BitVec.toNat_ofBool, BitVec.toNat_ofNat]
  omega

/-- Register 1: `blk`, `blk_inv` and `expected_blk` at bits 0, 8 and 16. -/
theorem blockWord_toNat (e i b : Byte) :
    (0#8 ++ e ++ i ++ b : BitVec 32).toNat = b.toNat + 2 ^ 8 * i.toNat + 2 ^ 16 * e.toNat := by
  simp only [append_toNat, BitVec.toNat_ofNat]
  omega

/-- Register 6: `fwe_valid`, `fwe_fault` and `fwe_cause` at bits 0, 1 and 4. -/
theorem faultWord_toNat (c : BitVec 3) (f v : Bool) :
    (0#25 ++ c ++ 0#2 ++ BitVec.ofBool f ++ BitVec.ofBool v : BitVec 32).toNat =
      v.toNat + 2 * f.toNat + 2 ^ 4 * c.toNat := by
  simp only [append_toNat, BitVec.toNat_ofBool, BitVec.toNat_ofNat]
  omega

/-- The map assigns the numbers 0 to 6 (R36). -/
theorem registerView_isSome_iff (n : Byte) : (registerView s n).isSome = true ↔ n.toNat ≤ 6 := by
  unfold registerView
  generalize n.toNat = k
  match k with
  | 0 | 1 | 2 | 3 | 4 | 5 | 6 => simp
  | k + 7 => simp

/-- RDREG answers what the map says, and `E_BAD_REG` with 0 where it says nothing (R131). -/
theorem exec_rdreg (n : Byte) (s : State) :
    exec (.rdreg n) s =
      .next (respond (if n.toNat ≤ 6 then .ok else .badReg) ((registerView s n).getD 0) s) := by
  have hn := registerView_isSome_iff (s := s) n
  simp only [exec, execRdreg]
  cases hv : registerView s n with
  | some v =>
    have hle : n.toNat ≤ 6 := hn.1 (by rw [hv]; rfl)
    rw [if_pos hle]; rfl
  | none =>
    have hgt : ¬ n.toNat ≤ 6 := by rw [← hn, hv]; simp
    rw [if_neg hgt]; rfl

/-! ### The statements -/

/-- Settles O19: both rules are `startPacket`, each with its own length. -/
theorem sohAndStxStartAPacket : Obligations.SohAndStxStartAPacket := fun _ => ⟨rfl, rfl⟩

/-- Settles O20: XFR_CAN is `handleReset` and the status. -/
theorem canInterruptsTheTransfer : Obligations.CanInterruptsTheTransfer := fun _ => rfl

/-- Settles O21: XFR_NOISE is `logDiag`, and XFR_BLKNUM one write of `blk`. -/
theorem noiseIsLoggedAndBlockNumberStored : Obligations.NoiseIsLoggedAndBlockNumberStored := fun _ _ => ⟨rfl, rfl⟩

/-- Settles O22: the sum decides between `exec_xfrBlkinv_match` and the protocol fault. -/
theorem complementDecidesTheHeader : Obligations.ComplementDecidesTheHeader := by
  intro b s htx
  rw [Ne, sum_eq_iff]
  refine ⟨add_eq_ones_iff s.blk b, exec_xfrBlkinv_match, fun h => ?_⟩
  have hf := protocolFault_ready (s := { s with blkInv := b }) (.badComplement s.blk b) htx
  exact (exec_xfrBlkinv_mismatch h).trans (congrArg finish hf)

/-- Settles O23: below `plen` the counter does not wrap and the byte has its place, so the write is an append. -/
theorem dataAppendsToThePayload : Obligations.DataAppendsToThePayload := by
  intro b s hi hx
  have hsucc := hi.pcount_succ hx
  refine ⟨_, rfl, rfl, hsucc, ?_, ?_, ?_⟩ <;> simp only [hsucc, hx]
  · exact take_succ_set b (hi.pcount_lt_pbuf hx)
  · exact List.drop_set_of_lt (Nat.lt_succ_self _)

/-- Settles O24, by the number that the two halves make. -/
theorem checksumHighByteIsStored : Obligations.ChecksumHighByteIsStored := fun b s =>
  ⟨_, rfl, rfl, setHigh_toNat b s.crcRx⟩

/-- Settles O28: the duplicate's branch sends ACK and nothing else. -/
theorem duplicateIsAcknowledgedNotStaged : Obligations.DuplicateIsAcknowledgedNotStaged := by
  intro b s htx hc hb
  have hs := send_ready (s := checksummed b s) ack htx
  exact (exec_xfrCrclo_duplicate hc ((eq_pred_iff _ _).1 hb)).trans (congrArg finish hs)

/-- Settles O33: `busy` decides between the refusal and the reset of the handle. -/
theorem startBeginsAnAttempt : Obligations.StartBeginsAnAttempt := fun _ =>
  ⟨exec_xfrStart_busy, exec_xfrStart_free⟩

/-- Settles O34: the status decides whether the probe byte is sent. -/
theorem probeIsSentOnlyWhileIdle : Obligations.ProbeIsSentOnlyWhileIdle := fun _ htx =>
  ⟨fun h => exec_xfrProbe_idle h htx, exec_xfrProbe_notIdle⟩

/-- Settles O35, register by register: each word of the map as the number its fields make. -/
theorem rdregReadsTheRegisterMap : Obligations.RdregReadsTheRegisterMap := by
  intro n s
  refine ⟨_, exec_rdreg n s, ?_⟩
  unfold registerView
  generalize n.toNat = k
  match k with
  | 0 =>
    refine (statusWord_toNat ..).trans ?_
    cases s.xstate <;> cases s.xstatus <;> rfl
  | 1 => exact blockWord_toNat ..
  | 2 => exact (append_toNat 0#21 s.pcount).trans (by simp)
  | 3 => exact (append_toNat s.crcCalc s.crcRx).trans (Nat.add_comm ..)
  | 4 => rfl
  | 5 => exact BitVec.toNat_ofNat ..
  | 6 =>
    refine (faultWord_toNat ..).trans ?_
    cases s.fweCause <;> rfl
  | k + 7 => rfl

end Sys2Proof.Machine
end

section
/-! The decoder and the encoder (30_encoding.md): each undoes the other on RXB events (R64, R67, R72), on command records
(R75, R76) and on command byte strings (R73). -/

namespace Sys2Proof

/-! ### RXB events -/

theorem wellFormed_xfrNoise_iff {b : Byte} :
    (Instr.xfrNoise b).wellFormed = true ↔ b ≠ 0x01 ∧ b ≠ 0x02 ∧ b ≠ 0x04 ∧ b ≠ 0x18 := by
  simp [Instr.wellFormed, controlBytes]

/-- In `WaitStart` a byte that is no control byte selects XFR_NOISE (R67). -/
theorem decodeWaitStart_of_noise {b : Byte} (h : (Instr.xfrNoise b).wellFormed = true) :
    decodeWaitStart b = .xfrNoise b := by
  obtain ⟨hsoh, hstx, heot, hcan⟩ := wellFormed_xfrNoise_iff.1 h
  rw [decodeWaitStart, if_neg hsoh, if_neg hstx, if_neg heot, if_neg hcan]

/-- The rule that a state and a byte select is a well-formed instruction whose encoding is their event (R67). -/
theorem decodeByte_encodes (x : XState) (b : Byte) :
    (decodeByte x b).wellFormed = true ∧ encode (decodeByte x b) = .event (rxEvent x.code b) := by
  cases x with
  | waitStart =>
    unfold decodeByte decodeWaitStart
    split_ifs with hsoh hstx heot hcan
    · subst hsoh; decide
    · subst hstx; decide
    · subst heot; decide
    · subst hcan; decide
    · exact ⟨wellFormed_xfrNoise_iff.2 ⟨hsoh, hstx, heot, hcan⟩, rfl⟩
  | waitBlockNum | waitBlockInv | waitData | waitCrcHigh | waitCrcLow => exact ⟨rfl, rfl⟩

/-- An event that decodes is a state and a byte, and decodes to their rule. -/
theorem decodeEvent_eq_ok {e : BitVec 11} {i : Instr} (h : decodeEvent e = .ok i) :
    ∃ x b, e = rxEvent x.code b ∧ i = decodeByte x b := by
  unfold decodeEvent at h
  split at h
  · next x hx =>
    cases h
    exact ⟨x, e.extractLsb' 0 8, by rw [code_of_ofCode hx, rxEvent_eta], rfl⟩
  · cases h

/-- The state code of an event is its number in units of 256. -/
theorem event_state_toNat (e : BitVec 11) : (e.extractLsb' 8 3).toNat = e.toNat / 256 := by
  have := e.isLt
  rw [BitVec.extractLsb'_toNat, Nat.shiftRight_eq_div_pow]
  omega

/-! ### Command bytes -/

theorem decodeBytes_of_parseCommand {bs rest : List Byte} {c : Command} {i : Instr}
    (hp : parseCommand bs = .ok (c, rest)) (hc : decodeCommand c = .ok i) : decodeBytes bs = .ok (i, rest) := by
  simp only [decodeBytes, hp, hc]

/-- The address operand of FWE_INIT and VER_VERIFY read back (R73). -/
theorem parseCommand_address {op : Byte} (h : op = 0x10 ∨ op = 0x20) (a : Word) (rest : List Byte) :
    parseCommand (op :: (leBytes 4 a.toNat ++ rest)) = .ok ({ Command.bare op with a := a }, rest) := by
  have ht := takeLe_leBytes 4 a.toNat rest a.isLt
  rcases h with rfl | rfl <;> simp [parseCommand, ht]

/-- The length and the data of FWE_STAGE read back (R73). -/
theorem parseCommand_stage {l : Half} {d : List Byte} (h : d.length = l.toNat) (rest : List Byte) :
    parseCommand (0x11 :: (leBytes 2 l.toNat ++ (d ++ rest))) =
      .ok ({ Command.bare 0x11 with l := l, d := d }, rest) := by
  have ht := takeLe_leBytes 2 l.toNat (d ++ rest) l.isLt
  have hle : l.toNat ≤ d.length + rest.length := by omega
  simp [parseCommand, ht, hle, List.take_left' h, List.drop_left' h]

/-! ### The statements -/

/-- Settles O1: an event form is a state's code with a byte, which `decodeEvent_rxEvent` undoes; a command form decodes by
its opcode. -/
theorem encodedInstructionsDecode : Obligations.EncodedInstructionsDecode := by
  intro i hw
  cases i with
  | xfrSoh | xfrStx | xfrEot | xfrCan => rfl
  | xfrNoise b =>
    exact (decodeEvent_rxEvent .waitStart b).trans (congrArg Except.ok (decodeWaitStart_of_noise hw))
  | xfrBlknum b => exact decodeEvent_rxEvent .waitBlockNum b
  | xfrBlkinv b => exact decodeEvent_rxEvent .waitBlockInv b
  | xfrData b => exact decodeEvent_rxEvent .waitData b
  | xfrCrchi b => exact decodeEvent_rxEvent .waitCrcHigh b
  | xfrCrclo b => exact decodeEvent_rxEvent .waitCrcLow b
  | xfrStart | xfrProbe | rdreg | fweInit | fweFlush | verVerify => rfl
  | fweStage l d => exact if_pos (by simpa [Instr.wellFormed] using hw)

/-- Settles O2: each opcode's operands are read back by `takeLe_leBytes`, and the bytes that follow are left. -/
theorem commandBytesDecode : Obligations.CommandBytesDecode := by
  intro i bs rest hw he
  cases i with
  | xfrSoh | xfrStx | xfrEot | xfrCan | xfrNoise | xfrBlknum | xfrBlkinv | xfrData | xfrCrchi | xfrCrclo => cases he
  | xfrStart | xfrProbe | fweFlush => cases he; rfl
  | rdreg n =>
    cases he
    refine decodeBytes_of_parseCommand (c := { Command.bare 0x03 with n := n }) ?_ rfl
    simp [parseCommand, takeLe, leNat]
  | fweInit a =>
    cases he
    exact decodeBytes_of_parseCommand (parseCommand_address (.inl rfl) a rest) rfl
  | verVerify a =>
    cases he
    exact decodeBytes_of_parseCommand (parseCommand_address (.inr rfl) a rest) rfl
  | fweStage l d =>
    cases he
    have hd : d.length = l.toNat := by simpa [Instr.wellFormed] using hw
    rw [List.append_assoc]
    exact decodeBytes_of_parseCommand (parseCommand_stage hd rest) (if_pos hd)

/-- Settles O3: an event that decodes is a state and a byte, and `decodeByte_encodes` gives their rule. -/
theorem decodedEventsEncodeBack : Obligations.DecodedEventsEncodeBack := by
  intro e i h
  obtain ⟨x, b, rfl, rfl⟩ := decodeEvent_eq_ok h
  exact decodeByte_encodes x b

/-- Settles O5: the events from 0x600 are those of the state codes 6 and 7, which stand for no state. -/
theorem reservedEventsAreRejected : Obligations.ReservedEventsAreRejected := by
  intro e
  have hcode := ofCode_eq_none (e.extractLsb' 8 3)
  rw [event_state_toNat] at hcode
  refine ⟨fun h => ?_, fun h => ?_⟩
  · have hn := hcode.2 (by omega)
    rw [decodeEvent, hn]
  · obtain ⟨x, hx⟩ := Option.ne_none_iff_exists'.1 (mt hcode.1 (by omega))
    rw [decodeEvent, hx]
    exact ⟨_, rfl⟩

/-- Settles O6, opcode by opcode of the table. -/
theorem opcodesOutsideTheTableAreIllegal : Obligations.OpcodesOutsideTheTableAreIllegal := by
  intro c
  unfold decodeCommand
  split
  case h_5 h => split <;> simp [h]
  case h_8 h1 h2 h3 h4 h5 h6 h7 => simpa using ⟨h1, h2, h3, h4, h5, h6, h7⟩
  all_goals next h => simp [h]

/-- Settles O7, by evaluation of the ten words. -/
theorem tableWordsDecodeToTheirRows : Obligations.TableWordsDecodeToTheirRows := by
  unfold Obligations.TableWordsDecodeToTheirRows
  decide

end Sys2Proof
end

section
/-! CRC16 (41_image_verifier.md R85), and the layout of the slots (00_scope.md R7). -/

namespace Sys2Proof.Machine

/-! ### CRC16 -/

/-- Zero bytes leave the register at 0. -/
theorem crc16_replicate_zero : ∀ n : Nat, crc16 (List.replicate n 0) = 0
  | 0 => rfl
  | n + 1 => by
    have hz : crcByte 0 0 = 0 := by decide
    rw [crc16, List.replicate_succ, crcFrom, hz]
    exact crc16_replicate_zero n

/-- Where the shifted number fits 16 bits no shift drops a bit, so the polynomial never enters. -/
theorem crcShift_toNat_of_lt :
    ∀ (n : Nat) (c : Half), c.toNat * 2 ^ n < 2 ^ 16 → (crcShift n c).toNat = c.toNat * 2 ^ n
  | 0, c, _ => (Nat.mul_one _).symm
  | n + 1, c, h => by
    have hn := Nat.one_le_two_pow (n := n)
    rw [Nat.pow_succ'] at h
    have h2 : c.toNat * 2 < 2 ^ 16 := by nlinarith
    have hmsb : ¬ c.msb = true := by rw [BitVec.msb_eq_decide]; simp; omega
    have hs : (c <<< 1).toNat = c.toNat * 2 := by
      rw [BitVec.toNat_shiftLeft, Nat.shiftLeft_eq, Nat.mod_eq_of_lt (by omega)]
    rw [crcShift, if_neg hmsb, crcShift_toNat_of_lt n _ (by rw [hs]; nlinarith), hs, Nat.pow_succ', Nat.mul_assoc]

/-- The high byte of the register cancels itself, which leaves the low byte in the high place. -/
theorem crcByte_high (c : Half) : crcByte c (c.extractLsb' 8 8) = (c.extractLsb' 0 8 ++ 0#8 : BitVec 16) := by
  have hc : c = (c.extractLsb' 8 8 ++ c.extractLsb' 0 8 : BitVec 16) := by
    apply BitVec.eq_of_toNat_eq
    have := c.isLt
    rw [append_toNat, BitVec.extractLsb'_toNat, BitVec.extractLsb'_toNat, Nat.shiftRight_eq_div_pow]
    omega
  have hx : c ^^^ (c.extractLsb' 8 8 ++ 0#8 : BitVec 16) = (0#8 ++ c.extractLsb' 0 8 : BitVec 16) := by
    conv_lhs => arg 1; rw [hc]
    rw [BitVec.xor_append, BitVec.xor_self, BitVec.xor_zero]
  have hn : (0#8 ++ c.extractLsb' 0 8 : BitVec 16).toNat = (c.extractLsb' 0 8).toNat := by
    rw [append_toNat]; simp
  have := (c.extractLsb' 0 8).isLt
  apply BitVec.eq_of_toNat_eq
  rw [crcByte, hx, crcShift_toNat_of_lt _ _ (by omega), hn, append_toNat, Nat.mul_comm]
  rfl

/-- The low byte cancels itself as well. -/
theorem crcFrom_self (c : Half) : crcFrom c [c.extractLsb' 8 8, c.extractLsb' 0 8] = 0 := by
  simp only [crcFrom, crcByte_high]
  rw [crcByte, BitVec.xor_self]
  decide

/-- Settles O57: the zero bytes leave the register at its initial value. -/
theorem checksumIgnoresLeadingZeros : Obligations.ChecksumIgnoresLeadingZeros := by
  intro n s
  rw [crc16_append, crc16_replicate_zero, crc16]

/-- Settles O58: the two bytes of the register cancel it. -/
theorem checksumAppendedGivesZero : Obligations.ChecksumAppendedGivesZero := by
  intro s
  rw [crc16_append, crcFrom_self]

/-- Settles O59: the register differs after the changed byte, and equal bytes keep it different. -/
theorem checksumDetectsAChangedByte : Obligations.ChecksumDetectsAChangedByte := by
  intro s i b h hne heq
  have hs : s = s.take i ++ s[i] :: s.drop (i + 1) := by simp
  conv_rhs at heq => rw [hs]
  rw [List.set_eq_take_append_cons_drop, if_pos h, crc16_append, crc16_append] at heq
  exact hne (crcByte_byte_injective (crcFrom_injective _ heq)).symm

/-! ### The slots -/

/-- A slot is the greatest number of whole pages of which two fit beside the metadata page (R7). -/
theorem slotCapacity_bounds {c : Config} (hp : 0 < c.pageSize) :
    slotCapacity c % c.pageSize = 0 ∧ 2 * slotCapacity c ≤ c.updateSize - c.pageSize ∧
      c.updateSize - c.pageSize < 2 * slotCapacity c + 2 * c.pageSize := by
  have hdm := Nat.div_add_mod' ((c.updateSize - c.pageSize) / 2) c.pageSize
  have hlt := Nat.mod_lt ((c.updateSize - c.pageSize) / 2) hp
  refine ⟨Nat.mul_mod_left _ _, ?_, ?_⟩ <;> unfold slotCapacity <;> omega

/-- Settles O60, from the bounds of the capacity. -/
theorem slotsLieInTheUpdateRegion : Obligations.SlotsLieInTheUpdateRegion := by
  rintro c ⟨hp, -, -, -, ⟨hub, -⟩, ⟨hlo, hhi⟩, hcap, -⟩
  obtain ⟨hmod, hle, hlt⟩ := slotCapacity_bounds (c := c) (by omega)
  have ha : slotA c % c.pageSize = 0 := by rw [slotA, Nat.add_mod_right, hub]
  have hb : slotB c % c.pageSize = 0 := by rw [slotB, Nat.add_mod, ha, hmod, Nat.zero_mod]
  have hA : slotA c = c.updateBase + c.pageSize := rfl
  have hB : slotB c = slotA c + slotCapacity c := rfl
  exact ⟨ha, hb, hmod, rfl, rfl, by omega, by omega, by omega, by omega⟩

end Sys2Proof.Machine
end

section
/-! A step in the cases of its schedule (60_exceptions.md R141 to R143), and the three reasons to refuse one. -/

namespace Sys2Proof.Machine

variable {s u : State}

/-! ### Which agent goes first -/

theorem fetchFavoured_byte {f : Bool} {b : Byte} {rest : List Byte} (hr : s.rxPort = b :: rest)
    (hf : f = true ∨ s.hostPort = []) :
    fetchFavoured f s = .run (decodeByte s.xstate b) { s with rxPort := rest } := by
  rw [← fetchByte_cons hr]
  cases f with
  | true => simp [fetchFavoured, hr]
  | false => simp [fetchFavoured, hf.resolve_left Bool.false_ne_true]

theorem fetchFavoured_command {f : Bool} {c : Command} {rest : List Command} (hh : s.hostPort = c :: rest)
    (hf : f = false ∨ s.rxPort = []) : fetchFavoured f s = fetchCommand s := by
  cases f with
  | true => simp [fetchFavoured, hf.resolve_left (Ne.symm Bool.false_ne_true)]
  | false => simp [fetchFavoured, hh]

theorem fetch_sched_byte {q : List Turn} (h : s.sched = .byte :: q) :
    fetch s = fetchFavoured true { s with sched := q } := by simp [fetch, h]

theorem fetch_sched_command {q : List Turn} (h : s.sched = .command :: q) :
    fetch s = fetchFavoured false { s with sched := q } := by simp [fetch, h]

theorem fetch_unscheduled (h : s.sched = []) (hp : s.rxPort = [] ∨ s.hostPort = []) :
    fetch s = fetchFavoured true s := by
  rcases hp with hp | hp <;> simp [fetch, h, hp]

/-- Where both wait unscheduled, a free value chooses (R143). -/
theorem fetch_race {b : Byte} {bs : List Byte} {c : Command} {cs : List Command} (h : s.sched = [])
    (hr : s.rxPort = b :: bs) (hh : s.hostPort = c :: cs) :
    fetch s = fetchFavoured (Config.freeByteFirst s.drawCount) { s with drawCount := s.drawCount + 1 } := by
  simp [fetch, h, hr, hh]

/-- The race goes to the byte or to the command. -/
theorem fetch_race_cases {b : Byte} {bs : List Byte} {c : Command} {cs : List Command} (h : s.sched = [])
    (hr : s.rxPort = b :: bs) (hh : s.hostPort = c :: cs) :
    fetch s = .run (decodeByte s.xstate b) { s with rxPort := bs, drawCount := s.drawCount + 1 } ∨
      fetch s = fetchCommand { s with drawCount := s.drawCount + 1 } := by
  rw [fetch_race h hr hh]
  cases Config.freeByteFirst s.drawCount with
  | true => exact .inl (fetchFavoured_byte hr (.inl rfl))
  | false => exact .inr (fetchFavoured_command hh (.inl rfl))

/-- The three ways in which a waiting command is the next event: its turn, nothing at the other port, no schedule. -/
theorem fetch_command {c : Command} {rest : List Command} (hh : s.hostPort = c :: rest) (q : List Turn) :
    (s.sched = .command :: q → fetch s = fetchCommand { s with sched := q }) ∧
    (s.sched = .byte :: q → s.rxPort = [] → fetch s = fetchCommand { s with sched := q }) ∧
    (s.sched = [] → s.rxPort = [] → fetch s = fetchCommand s) :=
  ⟨fun hs => (fetch_sched_command hs).trans (fetchFavoured_command hh (.inl rfl)),
    fun hs hr => (fetch_sched_byte hs).trans (fetchFavoured_command hh (.inr hr)),
    fun hs hr => (fetch_unscheduled hs (.inl hr)).trans (fetchFavoured_command hh (.inr hr))⟩

/-! ### The step of what is fetched -/

theorem step_of_fetch_run {i : Instr} (hv : configValid s.cfg) (h : fetch s = .run i u) : step s = exec i u := by
  rw [step_valid hv, h]

theorem step_of_fetchCommand {c : Command} {rest : List Command} {i : Instr} (hv : configValid s.cfg)
    (h : fetch s = fetchCommand u) (hh : u.hostPort = c :: rest) (hd : decodeCommand c = .ok i) :
    step s = exec i { u with hostPort := rest } :=
  step_of_fetch_run hv (h.trans (by simp [fetchCommand, hh, hd]))

theorem step_of_fetchCommand_illegal {c : Command} {rest : List Command} {op : Byte} (hv : configValid s.cfg)
    (h : fetch s = fetchCommand u) (hh : u.hostPort = c :: rest) (hd : decodeCommand c = .error (.illegalOpcode op)) :
    step s = .next (illegalCommand { u with hostPort := rest }) := by
  rw [step_valid hv, h]
  simp [fetchCommand, hh, hd]

/-- A byte's event decodes to the rule of its state. -/
theorem eq_decodeByte {x : XState} {b : Byte} {i : Instr} (h : decodeEvent (rxEvent x.code b) = .ok i) :
    i = decodeByte x b := by
  rw [decodeEvent_rxEvent] at h
  exact (Except.ok.inj h).symm

/-! ### No instruction is refused -/

theorem finish_ne_refused {r : Except Fault State} {q : Refusal} : finish r ≠ .refused q := by
  cases r <;> nofun

/-- Every meaning ends in a next state or in a port that never becomes ready. -/
theorem exec_ne_refused (i : Instr) (s : State) (q : Refusal) : exec i s ≠ .refused q := by
  cases i with
  | xfrSoh | xfrStx | xfrCan | xfrNoise | xfrBlknum | xfrData | xfrCrchi => nofun
  | xfrEot | xfrCrclo | verVerify => exact finish_ne_refused
  | xfrBlkinv b =>
    simp only [exec, execXfrBlkinv]
    split
    · nofun
    · exact finish_ne_refused
  | xfrStart => simp only [exec, execXfrStart]; split <;> nofun
  | xfrProbe =>
    simp only [exec, execXfrProbe]
    split
    · exact finish_ne_refused
    · nofun
  | rdreg n => rw [exec_rdreg]; nofun
  | fweInit a =>
    simp only [exec, execFweInit]
    split
    · nofun
    split
    · nofun
    split
    · nofun
    exact finish_ne_refused
  | fweStage l d =>
    simp only [exec, execFweStage]
    split
    · nofun
    split
    · nofun
    split
    · nofun
    exact finish_ne_refused
  | fweFlush =>
    simp only [exec, execFweFlush]
    split
    · nofun
    split
    · nofun
    exact finish_ne_refused

/-! ### The statements -/

/-- Settles O8: in each case of the schedule the fetch gives the waiting event to its agent. -/
theorem stepRunsTheDecodedInstruction : Obligations.StepRunsTheDecodedInstruction := by
  refine ⟨fun s b rest q i hv hr hd => ?_, fun s c rest q i hv hh hd => ?_⟩
  · obtain rfl := eq_decodeByte hd
    refine ⟨fun hs => step_of_fetch_run hv ?_, fun hs hh => step_of_fetch_run hv ?_,
      fun hs hh => step_of_fetch_run hv ?_⟩
    · exact (fetch_sched_byte hs).trans (fetchFavoured_byte hr (.inl rfl))
    · exact (fetch_sched_command hs).trans (fetchFavoured_byte hr (.inr hh))
    · exact (fetch_unscheduled hs (.inr hh)).trans (fetchFavoured_byte hr (.inl rfl))
  · obtain ⟨hturn, halone, hfree⟩ := fetch_command hh q
    exact ⟨fun hs => step_of_fetchCommand hv (hturn hs) hh hd,
      fun hs hr => step_of_fetchCommand hv (halone hs hr) hh hd,
      fun hs hr => step_of_fetchCommand hv (hfree hs hr) hh hd⟩

/-- Settles O9: the free choice goes to the byte or to the command. -/
theorem unscheduledStepRunsEitherAgent : Obligations.UnscheduledStepRunsEitherAgent := by
  intro s b bs c cs i j hv hr hh hs hi hj
  obtain rfl := eq_decodeByte hi
  exact (fetch_race_cases hs hr hh).imp (step_of_fetch_run hv)
    (step_of_fetchCommand (u := { s with drawCount := s.drawCount + 1 }) hv · hh hj)

/-- Settles O10: whichever case of the schedule takes the command, an opcode outside the table is answered E_BAD_CMD. -/
theorem illegalOpcodeAnswersBadCmd : Obligations.IllegalOpcodeAnswersBadCmd := by
  intro s c rest q hv hh hop
  have hd := (opcodesOutsideTheTableAreIllegal c).2 hop
  obtain ⟨hturn, halone, hfree⟩ := fetch_command hh q
  refine ⟨fun hs => step_of_fetchCommand_illegal hv (hturn hs) hh hd,
    fun hs hr => step_of_fetchCommand_illegal hv (halone hs hr) hh hd,
    fun hs hr => step_of_fetchCommand_illegal hv (hfree hs hr) hh hd, fun b bs i hs hr hi => ?_⟩
  obtain rfl := eq_decodeByte hi
  exact (fetch_race_cases hs hr hh).imp (step_of_fetch_run hv)
    (step_of_fetchCommand_illegal (u := { s with drawCount := s.drawCount + 1 }) hv · hh hd)

/-- Settles O11: no instruction is refused, and `fetch_spec` says when there is none to run. -/
theorem stepRefusesOnlyByName : Obligations.StepRefusesOnlyByName := by
  intro s r h
  by_cases hv : configValid s.cfg
  · have hf := fetch_spec s
    rw [step_valid hv] at h
    cases hfs : fetch s with
    | idle => rw [hfs] at h hf; cases h; exact .inr (.inl ⟨rfl, hf⟩)
    | reset u => rw [hfs] at h; cases h
    | run i u => rw [hfs] at h; exact absurd h (exec_ne_refused i u r)
    | illegal u => rw [hfs] at h; cases h
    | malformed => rw [hfs] at h hf; cases h; exact .inr (.inr ⟨rfl, hf⟩)
    | reserved => rw [hfs] at h; cases h
  · rw [step_invalid hv] at h
    cases h
    exact .inl ⟨rfl, hv⟩

end Sys2Proof.Machine
end

section
/-! The invariant of the machine (10_state.md R18, R29; 60_exceptions.md R147): it holds after reset, and every step keeps
it. -/

namespace Sys2Proof.Machine

variable {s t u : State}

/-! ### The state that dispatches a rule -/

/-- The protocol state whose row of R67 a byte rule is; none for a host command. -/
def ruleState : Instr → Option XState
  | .xfrSoh | .xfrStx | .xfrEot | .xfrCan | .xfrNoise _ => some .waitStart
  | .xfrBlknum _ => some .waitBlockNum
  | .xfrBlkinv _ => some .waitBlockInv
  | .xfrData _ => some .waitData
  | .xfrCrchi _ => some .waitCrcHigh
  | .xfrCrclo _ => some .waitCrcLow
  | .xfrStart | .xfrProbe | .rdreg _ | .fweInit _ | .fweStage _ _ | .fweFlush | .verVerify _ => none

theorem ruleState_decodeByte (x : XState) (b : Byte) : ruleState (decodeByte x b) = some x := by
  cases x with
  | waitStart => unfold decodeByte decodeWaitStart; split_ifs <;> rfl
  | waitBlockNum | waitBlockInv | waitData | waitCrcHigh | waitCrcLow => rfl

/-- A command record decodes to a host command, and its data has the length it says (R73, R75). -/
theorem decodeCommand_ok {c : Command} {i : Instr} (h : decodeCommand c = .ok i) :
    ruleState i = none ∧ i.wellFormed = true := by
  unfold decodeCommand at h
  split at h
  case h_5 =>
    split at h
    · next hl => cases h; exact ⟨rfl, by simpa [Instr.wellFormed] using hl⟩
    · cases h
  all_goals cases h
  all_goals exact ⟨rfl, rfl⟩

/-- A byte rule runs in its own state. -/
theorem Dispatched.xstate_eq {i : Instr} {x : XState} (hd : Dispatched s i) (hx : ruleState i = some x) :
    s.xstate = x := by
  rcases hd with ⟨b, rfl⟩ | ⟨c, hc⟩
  · rw [ruleState_decodeByte] at hx
    exact Option.some.inj hx
  · rw [(decodeCommand_ok hc).1] at hx
    cases hx

theorem Dispatched.wellFormed {i : Instr} (hd : Dispatched s i) : i.wellFormed = true := by
  rcases hd with ⟨b, rfl⟩ | ⟨c, hc⟩
  · exact (decodeByte_encodes s.xstate b).1
  · exact (decodeCommand_ok hc).2

/-! ### What the invariant does not speak of -/

theorem Inv.consumed (hi : Inv s) (hu : Consumed s u) : Inv u := by
  rw [hu]; exact { hi with }

theorem Inv.respond (hi : Inv s) (c : RespCode) (v : Word) : Inv (respond c v s) := { hi with }

theorem Inv.logDiag (hi : Inv s) (d : Diag) : Inv (logDiag d s) := { hi with }

theorem Inv.send {b : Byte} (hi : Inv s) (h : send b s = .ok t) : Inv t := by
  rw [send_ok h]; exact { hi with }

/-- A storage fault sets the flag and the cause together (R16, R17). -/
theorem Inv.storageFault {c : FaultCause} (hi : Inv s) (hc : c ≠ .none) : Inv (storageFault c s) :=
  { hi with fault_cause := by simp [hc] }

/-! ### The protocol state -/

/-- In `WaitStart` the invariant asks nothing of the packet's registers but their ranges (R29). -/
theorem Inv.toWaitStart (hi : Inv s) (hx : t.xstate = .waitStart) (hp : t.pcount = s.pcount ∨ t.pcount = 0)
    (hr : t = { s with
      xstate := t.xstate, xstatus := t.xstatus, blk := t.blk, blkInv := t.blkInv, expectedBlk := t.expectedBlk
      plenSel := t.plenSel, pcount := t.pcount, crcRx := t.crcRx, crcCalc := t.crcCalc }) : Inv t := by
  have hle : t.pcount.toNat ≤ 1024 := by
    rcases hp with hp | hp <;> rw [hp]
    · exact hi.pcount_le
    · exact Nat.zero_le _
  rw [hr]
  exact { hi with
    pcount_le := hle
    wait_data := fun h => by cases hx.symm.trans h
    wait_crc := fun h => by rcases h with h | h <;> cases hx.symm.trans h
    in_progress := fun h => absurd hx h }

theorem Inv.handleReset (hi : Inv s) (x : XStatus) : Inv { handleReset s with xstatus := x } :=
  hi.toWaitStart rfl (.inr rfl) rfl

theorem Inv.checksummed (hi : Inv s) (b : Byte) : Inv (checksummed b s) := hi.toWaitStart rfl (.inl rfl) rfl

theorem Inv.startPacket (hi : Inv s) (sel : Bool) : Inv (startPacket sel s) :=
  { hi with wait_data := nofun, wait_crc := nofun, in_progress := fun _ => rfl }

/-- A protocol fault returns to `WaitStart` (R138). -/
theorem Inv.protocolFault {d : Diag} (hi : Inv s) (h : protocolFault d s = .ok t) : Inv t := by
  rw [protocolFault_ok h]
  exact { hi with wait_data := nofun, wait_crc := nofun, in_progress := fun h => absurd rfl h }

/-! ### The FWE handle -/

/-- Staged bytes stay inside the page, and the mirror keeps its length (R95). -/
theorem Inv.stage {d : List Byte} (hi : Inv s) (h : stage d s = .ok t) : Inv t := by
  obtain ⟨hv, hle, rfl⟩ := stage_ok h
  exact { hi with
    offset_le := hle
    not_init := fun hf => by rw [hv] at hf; cases hf
    mirror_length := (length_splice _ _ _ (by rw [hi.mirror_length]; exact hle)).trans hi.mirror_length }

theorem Inv.acceptPacket (hi : Inv s) (h : acceptPacket s = .ok t) : Inv t := by
  rcases acceptPacket_ok h with ⟨-, rfl⟩ | ⟨-, -, hf⟩ | ⟨-, s1, s2, h1, hst, hs⟩
  · exact hi.storageFault (by decide)
  · exact hi.flushProc hf
  · have hi1 : Inv s1 := by
      rcases h1 with ⟨-, hf⟩ | ⟨-, rfl⟩
      · exact hi.flushProc hf
      · exact hi
    exact Inv.send (s := { s2 with expectedBlk := s2.expectedBlk + 1 }) { hi1.stage hst with } hs

/-! ### Reset -/

theorem Inv.powerOn {c : Config} {m : Memory} (hc : configValid c) (hm : Memory.wf c.erasedByte m = true)
    (hr : ∀ e ∈ m, c.storageBase ≤ e.1 ∧ e.1 < c.storageBase + c.storageSize) : Inv (State.powerOn c m) where
  cfg_valid := hc
  offset_le := Nat.zero_le _
  not_init := fun _ => ⟨rfl, rfl⟩
  aligned := Nat.zero_mod _
  mirror_length := List.length_replicate
  pbuf_length := List.length_replicate
  pcount_le := Nat.zero_le _
  wait_data := nofun
  wait_crc := nofun
  in_progress := fun h => absurd rfl h
  locked := rfl
  fault_cause := by simp
  storage_wf := hm
  storage_range := hr

theorem Inv.powerCycle (hi : Inv s) : Inv (powerCycle s) :=
  { Inv.powerOn hi.cfg_valid hi.storage_wf hi.storage_range with }

/-! ### Every instruction -/

/-- XFR_DATA keeps the count below `plen`, or completes the payload (R117). -/
theorem Inv.xfrData {b : Byte} (hi : Inv s) (hx : s.xstate = .waitData) (h : exec (.xfrData b) s = .next t) : Inv t := by
  have hlt := hi.wait_data hx
  have hle := plen_le s
  have hsucc := hi.pcount_succ hx
  cases h
  exact { hi with
    pbuf_length := (List.length_set).trans hi.pbuf_length
    pcount_le := by show (s.pcount + 1).toNat ≤ 1024; omega
    wait_data := fun h => by
      show (s.pcount + 1).toNat < plen s
      by_contra hge
      rw [if_pos (by omega)] at h
      cases h
    wait_crc := fun h => by
      show (s.pcount + 1).toNat = plen s
      by_contra hne
      rw [if_neg hne, hx] at h
      rcases h with h | h <;> cases h
    in_progress := fun _ => hi.in_progress (by rw [hx]; decide) }

/-- Every instruction that an event can stand for keeps the invariant. -/
theorem exec_keeps_inv {i : Instr} (hi : Inv s) (hd : Dispatched s i) (h : exec i s = .next t) : Inv t := by
  cases i with
  | xfrSoh => cases h; exact hi.startPacket false
  | xfrStx => cases h; exact hi.startPacket true
  | xfrEot =>
    obtain ⟨s1, r, s2, hs, hf, rfl⟩ := exec_xfrEot_next h
    have hi1 := hi.send hs
    rcases hf with ⟨-, hf⟩ | ⟨-, -, rfl⟩
    · exact (hi1.flushProc hf).handleReset _
    · exact hi1.handleReset _
  | xfrCan => cases h; exact hi.handleReset _
  | xfrNoise b => cases h; exact hi.logDiag _
  | xfrBlknum b =>
    have hx := hd.xstate_eq rfl
    cases h
    exact { hi with
      wait_data := nofun
      wait_crc := nofun
      in_progress := fun _ => hi.in_progress (by rw [hx]; decide) }
  | xfrBlkinv b =>
    have hx := hd.xstate_eq rfl
    rcases exec_xfrBlkinv_next h with ⟨-, rfl⟩ | ⟨-, hf⟩
    · exact { hi with
        pcount_le := Nat.zero_le _
        wait_data := fun _ => plen_pos s
        wait_crc := nofun
        in_progress := fun _ => hi.in_progress (by rw [hx]; decide) }
    · exact Inv.protocolFault (s := { s with blkInv := b }) { hi with } hf
  | xfrData b => exact hi.xfrData (hd.xstate_eq rfl) h
  | xfrCrchi b =>
    have hx := hd.xstate_eq rfl
    cases h
    exact { hi with
      wait_data := nofun
      wait_crc := fun _ => hi.wait_crc (.inl hx)
      in_progress := fun _ => hi.in_progress (by rw [hx]; decide) }
  | xfrCrclo b =>
    have hi1 := hi.checksummed b
    rcases exec_xfrCrclo_next h with ⟨d, hf⟩ | hs | ⟨-, -, ha⟩
    · exact hi1.protocolFault hf
    · exact hi1.send hs
    · exact hi1.acceptPacket ha
  | xfrStart =>
    rcases exec_xfrStart_next h with rfl | rfl
    · exact hi.respond _ _
    · exact (hi.handleReset _).respond _ _
  | xfrProbe =>
    rcases exec_xfrProbe_next h with ⟨-, u, hs, rfl⟩ | ⟨-, rfl⟩
    · exact (hi.send hs).respond _ _
    · exact hi.respond _ _
  | rdreg n => obtain ⟨c, v, rfl⟩ := exec_rdreg_next h; exact hi.respond c v
  | fweInit a =>
    rcases exec_fweInit_next h with ⟨c, rfl⟩ | ⟨-, ha, -, l, -, rfl⟩
    · exact hi.respond _ _
    · exact { hi with
        offset_le := Nat.zero_le _
        not_init := nofun
        aligned := ha
        mirror_length := storageBytes_length s _ _
        fault_cause := by simp }
  | fweStage l d =>
    rcases exec_fweStage_next h with ⟨c, rfl⟩ | ⟨-, hv, hle, rfl⟩
    · exact hi.respond _ _
    · exact (hi.stage (stage_ready hv hle)).respond _ _
  | fweFlush =>
    rcases exec_fweFlush_next h with ⟨c, rfl⟩ | ⟨-, -, r, u, c, v, hf, rfl⟩
    · exact hi.respond _ _
    · exact (hi.flushProc hf).respond c v
  | verVerify a =>
    obtain ⟨v, l, -, rfl⟩ := exec_verVerify_next h
    exact { hi with }

/-! ### The statements -/

/-- Settles O14: the event's state meets the invariant, and its instruction, a reset and a refusal keep it. -/
theorem stepKeepsTheInvariant : Obligations.StepKeepsTheInvariant := by
  intro s t hi h
  obtain ⟨-, u, hu, hrun⟩ := step_next h
  have hiu := hi.consumed hu
  rcases hrun with ⟨i, hd, hex⟩ | rfl | rfl
  · exact exec_keeps_inv hiu hd hex
  · exact hiu.powerCycle
  · exact hiu.respond _ _

/-- Settles O13: both are the state after power-on reset. -/
theorem resetMeetsTheInvariant : Obligations.ResetMeetsTheInvariant :=
  ⟨Inv.powerOn (by decide) rfl nofun, fun _ _ => Inv.powerOn⟩

/-- A 1024-byte packet has been received, and the byte SOH of the next packet waits. -/
def sohAfterLongPacket : State :=
  { State.reset with plenSel := true, pcount := 1024, rxPort := [0x01] }

theorem sohAfterLongPacket_inv : Inv sohAfterLongPacket :=
  { resetMeetsTheInvariant.1 with
    pcount_le := by decide
    wait_data := by decide
    wait_crc := by decide }

/-- Settles O18: SOH selects the length 128 and leaves the count 1024; elsewhere R29 or the range of R25 bounds the count. -/
theorem payloadCounterCanExceedThePacketLength : Obligations.PayloadCounterCanExceedThePacketLength := by
  refine ⟨⟨sohAfterLongPacket, _, sohAfterLongPacket_inv, by decide, rfl, by decide⟩, fun s hi hlt => ?_⟩
  have hsel : s.plenSel = false := by
    by_contra hne
    have := hi.pcount_le
    simp only [plen, if_pos (Bool.of_not_eq_false hne)] at hlt
    omega
  refine ⟨hsel, ?_⟩
  cases hx : s.xstate with
  | waitStart => exact .inl rfl
  | waitBlockNum => exact .inr (.inl rfl)
  | waitBlockInv => exact .inr (.inr rfl)
  | waitData => have := hi.wait_data hx; omega
  | waitCrcHigh => have := hi.wait_crc (.inl hx); omega
  | waitCrcLow => have := hi.wait_crc (.inr hx); omega

end Sys2Proof.Machine
end

section
/-! XFR_CRCLO and XFR_EOT over their branches, where the ports become ready (43_transfer_protocol.md R112, R119 to R122;
60_exceptions.md R137, R140, R146). -/

namespace Sys2Proof.Machine

variable {s u : State}

/-! ### FlushProc from a good state -/

/-- From a good state FlushProc completes for every draw, and leaves what its rules say (R97 to R104). -/
theorem Inv.flushProc_ready {s : State} (hi : Inv s) (hv : s.fweValid = true) (hr : StorageReady s) :
    ∃ r u, Machine.flushProc s = .ok (r, u) ∧ Flushed s u r := by
  obtain ⟨r, u, hf⟩ := Machine.flushProc_ready hv hi.flushReady hr
  exact ⟨r, u, hf, flushProc_flushed hi.flushReady hi.storage_wf hf⟩

/-- Staged bytes mean that FWE is initialised (R18). -/
theorem Inv.fweValid_of_offset (hi : Inv s) (ho : 0 < s.offset) : s.fweValid = true := by
  by_contra hv
  have := (hi.not_init (by simpa using hv)).1
  omega

/-! ### XFR_EOT -/

theorem exec_xfrEot_empty (htx : s.txLimit = none) (ho : s.offset = 0) :
    exec .xfrEot s = .next { handleReset { s with tx := s.tx ++ [ack] } with xstatus := .finished } := by
  simp only [exec, execXfrEot, send_ready ack htx, bind, Except.bind, eotFlush, ho, Nat.lt_irrefl, if_false]
  rfl

theorem exec_xfrEot_flush {r : PortResult} (htx : s.txLimit = none) (ho : 0 < s.offset)
    (hf : flushProc { s with tx := s.tx ++ [ack] } = .ok (r, u)) :
    exec .xfrEot s = .next { handleReset u with xstatus := statusAfterEot u.cfg r } := by
  simp only [exec, execXfrEot, send_ready ack htx, bind, Except.bind, eotFlush, ho, if_true, hf]
  rfl

/-- The status after an EOT, as R112 and R146 word it. -/
theorem statusAfterEot_eq (c : Config) (r : PortResult) :
    statusAfterEot c r = if r = .ok ∨ c.eotFlushFail = .finished then .finished else .interrupted := by
  cases r with
  | ok => rfl
  | fail => cases h : c.eotFlushFail <;> simp [statusAfterEot, h]

/-! ### The accept path -/

/-- What staging the payload and acknowledging it leaves (R119). -/
def packetAccepted (s : State) : State :=
  { s with
    mirror := s.mirror.take s.offset ++ payload s ++ s.mirror.drop (s.offset + plen s)
    offset := s.offset + plen s
    expectedBlk := s.expectedBlk + 1
    tx := s.tx ++ [ack] }

theorem acceptPacket_notInit (hv : s.fweValid = false) : acceptPacket s = .ok (storageFault .notInit s) :=
  if_neg (by simp [hv])

/-- After a room check that answers `Ok` in a state with room the payload is staged and acknowledged. -/
theorem acceptPacket_of_roomCheck (hv : s.fweValid = true) (hroom : roomCheck s = .ok (.ok, u))
    (hvu : u.fweValid = true) (hlen : (payload u).length = plen u) (hfit : u.offset + plen u ≤ u.cfg.pageSize)
    (htx : u.txLimit = none) : acceptPacket s = .ok (packetAccepted u) := by
  have hst := stage_ready (d := payload u) hvu (by rw [hlen]; exact hfit)
  rw [hlen] at hst
  unfold acceptPacket
  rw [if_pos hv, hroom]
  simp only [bind, Except.bind, hst]
  exact send_ready _ htx

theorem roomCheck_fits (h : s.offset + plen s ≤ s.cfg.pageSize) : roomCheck s = .ok (.ok, s) :=
  if_neg (by omega)

theorem roomCheck_flushes (h : s.cfg.pageSize < s.offset + plen s) : roomCheck s = flushProc s := by
  have := plen_pos s
  exact if_pos (by omega)

theorem acceptPacket_fits (hi : Inv s) (hv : s.fweValid = true) (htx : s.txLimit = none)
    (h : s.offset + plen s ≤ s.cfg.pageSize) : acceptPacket s = .ok (packetAccepted s) :=
  acceptPacket_of_roomCheck hv (roomCheck_fits h) hv hi.payload_length h htx

/-- What a flush leaves of the packet's registers and the configuration. -/
theorem Flushed.kept {s u : State} {r : PortResult} (h : Flushed s u r) :
    u.cfg = s.cfg ∧ u.fweValid = s.fweValid ∧ plen u = plen s ∧ payload u = payload s ∧
      u.expectedBlk = s.expectedBlk ∧ u.tx = s.tx ∧ u.txLimit = s.txLimit := by
  rw [h.frame]
  exact ⟨rfl, rfl, rfl, rfl, rfl, rfl, rfl⟩

/-- A flush that succeeds makes room: a page holds any payload (R6, R103). -/
theorem acceptPacket_flush_ok (hi : Inv s) (hv : s.fweValid = true) (htx : s.txLimit = none)
    (h : s.cfg.pageSize < s.offset + plen s) (hf : flushProc s = .ok (.ok, u)) (hfl : Flushed s u .ok) :
    acceptPacket s = .ok (packetAccepted u) := by
  obtain ⟨hcfg, hvu, hplen, hpay, -, -, htxu⟩ := hfl.kept
  obtain ⟨-, -, hoff, -⟩ := hfl.success rfl
  refine acceptPacket_of_roomCheck hv ((roomCheck_flushes h).trans hf) (hvu.trans hv) ?_ ?_ (htxu.trans htx)
  · rw [hpay, hplen, hi.payload_length]
  · have := plen_le s
    have := hi.cfg_valid.1
    rw [hoff, hplen, hcfg]
    omega

theorem acceptPacket_flush_fail (hv : s.fweValid = true) (h : s.cfg.pageSize < s.offset + plen s)
    (hf : flushProc s = .ok (.fail, u)) : acceptPacket s = .ok u := by
  unfold acceptPacket
  rw [if_pos hv, roomCheck_flushes h, hf]
  rfl

/-! ### XFR_CRCLO -/

theorem exec_xfrCrclo_badCrc {b : Byte} (hc : (checksummed b s).crcCalc ≠ (checksummed b s).crcRx) :
    exec (.xfrCrclo b) s = finish (protocolFault
      (.badCrc (checksummed b s).crcRx (checksummed b s).crcCalc) (checksummed b s)) := by
  rw [exec_xfrCrclo, if_pos hc]

theorem exec_xfrCrclo_inSequence {b : Byte} (hc : (checksummed b s).crcCalc = (checksummed b s).crcRx)
    (hb : s.blk = s.expectedBlk) : exec (.xfrCrclo b) s = finish (acceptPacket (checksummed b s)) := by
  rw [exec_xfrCrclo, if_neg (not_not_intro hc), if_pos hb]

theorem exec_xfrCrclo_badSequence {b : Byte} (hc : (checksummed b s).crcCalc = (checksummed b s).crcRx)
    (hb : s.blk ≠ s.expectedBlk) (hd : s.blk ≠ s.expectedBlk - 1) :
    exec (.xfrCrclo b) s = finish (protocolFault (.badSequence s.blk s.expectedBlk) (checksummed b s)) := by
  rw [exec_xfrCrclo, if_neg (not_not_intro hc), if_neg hb, if_neg hd]

/-! ### The statements -/

/-- Settles O25: the mismatch is a protocol fault before the block number is looked at. -/
theorem badChecksumIsRejected : Obligations.BadChecksumIsRejected := by
  intro b s htx hc
  exact (exec_xfrCrclo_badCrc hc).trans (congrArg finish (protocolFault_ready (s := checksummed b s) _ htx))

/-- Settles O29: the remaining branch of the block number is a protocol fault. -/
theorem outOfSequencePacketIsRejected : Obligations.OutOfSequencePacketIsRejected := by
  intro b s htx hc hb hd
  have hf := protocolFault_ready (s := checksummed b s) (.badSequence s.blk s.expectedBlk) htx
  exact (exec_xfrCrclo_badSequence hc hb (mt (eq_pred_iff _ _).2 hd)).trans (congrArg finish hf)

/-- Settles O30: before FWE_INIT the accept path is the storage fault FC_NOT_INIT. -/
theorem packetBeforeInitIsAStorageFault : Obligations.PacketBeforeInitIsAStorageFault := by
  intro b s hc hb hv
  exact (exec_xfrCrclo_inSequence hc hb).trans (congrArg finish (acceptPacket_notInit (s := checksummed b s) hv))

/-- Settles O26: with room the accept path stages the payload, which `getElem?_splice` gives byte by byte. -/
theorem packetInSequenceIsStaged : Obligations.PacketInSequenceIsStaged := by
  intro b s hi htx hx hc hb hv hfit
  have hlen := hi.payload_length
  have hfit' : s.offset + (payload s).length ≤ s.mirror.length := by rw [hlen, hi.mirror_length]; exact hfit
  have ha := acceptPacket_fits (hi.checksummed b) hv htx hfit
  refine ⟨_, (exec_xfrCrclo_inSequence hc hb).trans (congrArg finish ha), rfl, ?_, fun i => ?_⟩
  · have h := length_splice _ _ _ hfit'
    rw [hlen] at h
    exact h
  · have h := getElem?_splice _ _ _ i hfit'
    rw [hlen] at h
    refine h.trans (ite_congr rfl (fun hin => ?_) fun _ => rfl)
    exact List.getElem?_take_of_lt (by omega)

/-- Settles O27: the flush answers for every draw, and its result decides what follows. -/
theorem roomCheckFlushesBeforeStaging : Obligations.RoomCheckFlushesBeforeStaging := by
  intro b s hi hr hx hc hb hv hfull
  have hic := hi.checksummed b
  obtain ⟨r, u, hf, hfl⟩ := hic.flushProc_ready hv hr.1
  refine ⟨r, u, hf, hfl, ?_, ?_⟩
  · rintro rfl
    obtain ⟨-, -, hplen, hpay, hexp, htx, -⟩ := hfl.kept
    obtain ⟨-, -, hoff, -⟩ := hfl.success rfl
    have ha := acceptPacket_flush_ok hic hv hr.2 hfull hf hfl
    refine (exec_xfrCrclo_inSequence hc hb).trans ((congrArg finish ha).trans ?_)
    rw [packetAccepted, hoff, hplen, hpay, hexp, htx, List.take_zero, List.nil_append, Nat.zero_add]
    rfl
  · rintro rfl
    exact (exec_xfrCrclo_inSequence hc hb).trans (congrArg finish
      (acceptPacket_flush_fail (s := checksummed b s) hv hfull hf))

/-- Settles O31: with nothing staged there is no flush. -/
theorem eotWithNothingStagedFinishes : Obligations.EotWithNothingStagedFinishes := fun _ => exec_xfrEot_empty

/-- Settles O32: the flush answers for every draw, and its result decides the status. -/
theorem eotFlushesTheLastPage : Obligations.EotFlushesTheLastPage := by
  intro s hi hr ho
  have his : Inv { s with tx := s.tx ++ [ack] } := { hi with }
  obtain ⟨r, u, hf, hfl⟩ := his.flushProc_ready (hi.fweValid_of_offset ho) hr.1
  have hstatus : statusAfterEot u.cfg r =
      if r = .ok ∨ s.cfg.eotFlushFail = .finished then .finished else .interrupted := by
    rw [hfl.kept.1]; exact statusAfterEot_eq s.cfg r
  refine ⟨r, u, hf, hfl, ?_⟩
  rw [exec_xfrEot_flush hr.2 ho hf, hstatus]
  rfl

end Sys2Proof.Machine
end

section
/-! The host commands of the flash write engine (42_flash_write_engine.md R93 to R106): FWE_INIT and FWE_STAGE that are
accepted, FWE_FLUSH for every draw, under the fault-free oracle and retried, and the refusals (60_exceptions.md R135). -/

namespace Sys2Proof.Machine

variable {s t u : State}

/-! ### Storage reads -/

/-- A storage byte depends on the configuration and the storage contents alone. -/
theorem storageByte_congr (hc : t.cfg = s.cfg) (hs : t.storage = s.storage) (a : Nat) :
    storageByte t a = storageByte s a := by
  simp only [storageByte, hc, hs]

theorem storageBytes_congr (hc : t.cfg = s.cfg) (hs : t.storage = s.storage) (a n : Nat) :
    storageBytes t a n = storageBytes s a n := by
  simp only [storageBytes, hc, hs]

theorem storageByte_writeStorage (hm : Memory.wf s.cfg.erasedByte s.storage = true) (a : Nat) (bs : List Byte)
    (x : Nat) : storageByte (writeStorage a bs s) x =
      if a ≤ x ∧ x < a + bs.length then bs.getD (x - a) 0 else storageByte s x :=
  Memory_read_writeBytes bs a x hm

theorem storageByte_writeStorage_inside (hm : Memory.wf s.cfg.erasedByte s.storage = true) (a : Nat) {bs : List Byte}
    {i : Nat} (h : i < bs.length) : storageByte (writeStorage a bs s) (a + i) = bs[i] := by
  rw [storageByte_writeStorage hm, if_pos (by omega), Nat.add_sub_cancel_left, List.getD_eq_getElem _ _ h]

theorem storageByte_writeStorage_outside (hm : Memory.wf s.cfg.erasedByte s.storage = true) {a x : Nat}
    {bs : List Byte} (h : x < a ∨ a + bs.length ≤ x) : storageByte (writeStorage a bs s) x = storageByte s x := by
  rw [storageByte_writeStorage hm, if_neg (by omega)]

/-- Contents that agree outside a range are equal once the range is overwritten. -/
theorem writeStorage_storage_eq (hs : Memory.wf s.cfg.erasedByte s.storage = true)
    (ht : Memory.wf t.cfg.erasedByte t.storage = true) (hc : t.cfg = s.cfg) {a : Nat} {bs : List Byte}
    (h : ∀ x, x < a ∨ a + bs.length ≤ x → storageByte t x = storageByte s x) :
    (writeStorage a bs t).storage = (writeStorage a bs s).storage := by
  refine Memory_ext (d := s.cfg.erasedByte) (hc ▸ Memory_writeBytes_wf bs a ht) (Memory_writeBytes_wf bs a hs)
    fun x => ?_
  have hx : storageByte (writeStorage a bs t) x = storageByte (writeStorage a bs s) x := by
    rw [storageByte_writeStorage ht, storageByte_writeStorage hs]
    split
    · rfl
    · exact h x (by omega)
  simpa only [storageByte, writeStorage_cfg, hc] using hx

/-- What was written reads back. -/
theorem storageBytes_writeStorage (hm : Memory.wf s.cfg.erasedByte s.storage = true) (a : Nat) (bs : List Byte) :
    storageBytes (writeStorage a bs s) a bs.length = bs :=
  (storageBytes_eq_iff _ _ _ _).2 ⟨rfl, fun _ h => storageByte_writeStorage_inside hm a h⟩

/-! ### Accepted commands -/

theorem exec_fweInit_ready {a : Word} (hr : s.readLimit = none) (hb : s.xstatus ≠ .inProgress)
    (ha : a.toNat % s.cfg.pageSize = 0) (hin : InStorage s.cfg a.toNat s.cfg.pageSize) :
    exec (.fweInit a) s = .next { s with
      curAddr := a, offset := 0, mirror := storageBytes s a.toNat s.cfg.pageSize, fweValid := true
      fweFault := false, fweCause := .none, resp := s.resp ++ [⟨.ok, 0⟩] } := by
  have hm := memRead_inStorage (s := { s with curAddr := a, offset := 0 }) hr hin
  simp only [exec, execFweInit]
  rw [if_neg (mt busy_eq_true_iff.1 hb), if_neg (not_not_intro ha), if_neg (not_not_intro hin)]
  simp only [loadMirror, hm, bind, Except.bind]
  rfl

theorem exec_fweStage_ready {l : Half} {d : List Byte} (hl : d.length = l.toNat) (hb : s.xstatus ≠ .inProgress)
    (hv : s.fweValid = true) (hfit : s.offset + l.toNat ≤ s.cfg.pageSize) :
    exec (.fweStage l d) s = .next { s with
      mirror := s.mirror.take s.offset ++ d ++ s.mirror.drop (s.offset + d.length)
      offset := s.offset + d.length
      resp := s.resp ++ [⟨.ok, BitVec.ofNat 32 (s.offset + d.length)⟩] } := by
  simp only [exec, execFweStage]
  rw [if_neg (mt busy_eq_true_iff.1 hb), if_neg (by simp [hv]), if_neg (by omega),
    stage_ready hv (by omega)]
  rfl

/-- The response to a FlushProc that returned `r` and left `u` (R105). -/
def flushResponse (r : PortResult) (u : State) : Response :=
  if r = .ok then ⟨.ok, u.curAddr⟩ else ⟨.flushFail, (causeCode u.fweCause).setWidth 32⟩

theorem exec_fweFlush_of_flushProc {r : PortResult} (hb : s.xstatus ≠ .inProgress) (hv : s.fweValid = true)
    (hf : flushProc s = .ok (r, u)) :
    exec .fweFlush s = .next { u with resp := u.resp ++ [flushResponse r u] } := by
  simp only [exec, execFweFlush]
  rw [if_neg (mt busy_eq_true_iff.1 hb), if_neg (by simp [hv]), hf]
  cases r <;> rfl

/-- A response is one that FlushProc failed only where it did. -/
theorem flushResponse_flushFail {r : PortResult} {v : Word} (h : flushResponse r u = ⟨.flushFail, v⟩) : r = .fail := by
  cases r with
  | ok => cases h
  | fail => rfl

/-- A FWE_FLUSH that answers E_FLUSH_FAIL ran a FlushProc that failed (R105). -/
theorem flushProc_of_exec_flushFail {v : Word} (hb : s.xstatus ≠ .inProgress) (hv : s.fweValid = true)
    (h : exec .fweFlush s = .next t) (hr : t.resp = s.resp ++ [⟨.flushFail, v⟩]) :
    ∃ u l, flushProc s = .ok (.fail, u) ∧ t = { u with resp := l } := by
  cases hf : flushProc s with
  | error e =>
    simp only [exec, execFweFlush] at h
    rw [if_neg (mt busy_eq_true_iff.1 hb), if_neg (by simp [hv]), hf] at h
    cases h
  | ok q =>
    obtain ⟨r, u⟩ := q
    rw [exec_fweFlush_of_flushProc hb hv hf] at h
    cases h
    have hu : u.resp = s.resp := by rw [(flushProc_frame hf).2.1]
    simp only [hu, List.append_cancel_left_eq, List.cons.injEq, and_true] at hr
    obtain rfl := flushResponse_flushFail hr
    exact ⟨u, _, rfl, rfl⟩

/-! ### FlushProc under the fault-free oracle -/

/-- What a flush of a page in range leaves under the fault-free oracle: the page holds the mirror, and the handle is one page
on (R97, R103). -/
structure FaultFreeFlushed (s u : State) : Prop where
  frame : u = { s with
    storage := u.storage, curAddr := s.curAddr + BitVec.ofNat 32 s.cfg.pageSize, offset := 0, mirror := u.mirror
    drawCount := u.drawCount }
  storage : u.storage = (writeStorage s.curAddr.toNat s.mirror s).storage
  length : u.mirror.length = s.cfg.pageSize
  keep : s.cfg.mirrorAfterFlush = .keep → u.mirror = s.mirror
  reload : s.cfg.mirrorAfterFlush = .reload →
    InStorage s.cfg (s.curAddr.toNat + s.cfg.pageSize) s.cfg.pageSize →
    u.mirror = storageBytes (writeStorage s.curAddr.toNat s.mirror s) (s.curAddr.toNat + s.cfg.pageSize) s.cfg.pageSize

theorem nextPage_eq_add (s : State) : nextPage s = s.curAddr + BitVec.ofNat 32 s.cfg.pageSize := by
  apply BitVec.eq_of_toNat_eq
  rw [nextPage, BitVec.toNat_ofNat, BitVec.toNat_add, BitVec.toNat_ofNat, Nat.add_mod_mod]

theorem flushProc_faultFreeFlushed (hi : Inv s) (hv : s.fweValid = true) (ho : FaultFree s)
    (hps : ProgramsAsAsked s.cfg) (hin : Erasable s.cfg s.curAddr.toNat) :
    ∃ u, flushProc s = .ok (.ok, u) ∧ FaultFreeFlushed s u := by
  obtain ⟨k, u, hf, hk⟩ := flushProc_faultFree hv hi.flushReady ho hps hi.storage_wf hin
  obtain ⟨hframe, ⟨hsc, hrl⟩, hkeep, hrel⟩ := commitFlush_spec hk
  have hscript : u.script = s.script := by
    rw [ho.1, List.eq_nil_iff_forall_not_mem]
    exact fun e he => List.not_mem_nil (ho.1 ▸ hsc e he)
  have hread : u.readLimit = s.readLimit := (hrl ho.2.2).trans ho.2.2.symm
  have hst : u.storage = (writeStorage s.curAddr.toNat s.mirror s).storage := by rw [hframe]; rfl
  refine ⟨u, hf, ?_, hst, ?_, hkeep, fun hp hin' => ?_⟩
  · rw [hscript, hread] at hframe
    rw [hst]
    refine hframe.trans ?_
    simp only [nextPage_eq_add, hi.locked]
    rfl
  · cases hp : s.cfg.mirrorAfterFlush with
    | keep => rw [hkeep hp]; exact hi.mirror_length
    | reload => exact (hrel hp).1
  · have hn := nextPage_toNat hin
    exact hn ▸ (hrel hp).2 (hn.symm ▸ hin')

/-! ### The statements -/

/-- Settles O36: the page is inside storage, so the read gives its bytes. -/
theorem initLoadsThePage : Obligations.InitLoadsThePage := by
  intro a s hr hb ha hin
  exact ⟨_, exec_fweInit_ready hr hb ha hin, rfl, storageBytes_length s _ _,
    fun i h => storageBytes_getElem s _ _ i h⟩

/-- Settles O37: `exec_fweStage_ready` splices the bytes in, which `getElem?_splice` gives byte by byte. -/
theorem stageCopiesIntoTheMirror : Obligations.StageCopiesIntoTheMirror := by
  intro l d s hi hl hb hv hfit
  have hfit' : s.offset + d.length ≤ s.mirror.length := by rw [hl, hi.mirror_length]; exact hfit
  rw [← hl]
  refine ⟨_, exec_fweStage_ready hl hb hv hfit, rfl, ?_, fun i => ?_⟩
  · exact length_splice _ _ _ hfit'
  · exact getElem?_splice _ _ _ i hfit'

/-- Settles O38: the flush answers for every draw, and the response reports its result. -/
theorem flushCommitsOrKeepsTheHandle : Obligations.FlushCommitsOrKeepsTheHandle := by
  intro s hi hr hb hv
  obtain ⟨r, u, hf, hfl⟩ := hi.flushProc_ready hv hr
  have hresp : u.resp = s.resp := by rw [hfl.frame]
  refine ⟨r, u, hf, hfl, ?_⟩
  rw [exec_fweFlush_of_flushProc hb hv hf, hresp]
  rfl

/-- Settles O39: the fault-free flush leaves `FaultFreeFlushed`, read byte by byte. -/
theorem faultFreeFlushWritesThePage : Obligations.FaultFreeFlushWritesThePage := by
  intro s hi ho hps hb hv hin
  obtain ⟨u, hf, hfl⟩ := flushProc_faultFreeFlushed hi hv ho hps hin
  have hlen := hi.mirror_length
  have hcfg : u.cfg = s.cfg := by rw [hfl.frame]
  have hbyte : ∀ r a, storageByte { u with resp := r } a =
      storageByte (writeStorage s.curAddr.toNat s.mirror s) a := fun r a =>
    storageByte_congr (s := writeStorage s.curAddr.toNat s.mirror s) (t := { u with resp := r }) hcfg hfl.storage a
  have hout : ∀ a, a < s.curAddr.toNat ∨ s.curAddr.toNat + s.cfg.pageSize ≤ a →
      storageByte (writeStorage s.curAddr.toNat s.mirror s) a = storageByte s a := fun a ha =>
    storageByte_writeStorage_outside hi.storage_wf (by rw [hlen]; exact ha)
  refine ⟨_, exec_fweFlush_of_flushProc hb hv hf, ?_, fun i h => ?_, fun a ha => ?_, hfl.length, hfl.keep,
    fun hp hin' i h => ?_⟩
  · have hresp : u.resp = s.resp := by rw [hfl.frame]
    have haddr : u.curAddr = s.curAddr + BitVec.ofNat 32 s.cfg.pageSize := by rw [hfl.frame]
    rw [hresp, flushResponse, if_pos rfl, haddr]
    conv_lhs => rw [hfl.frame]
  · rw [hbyte, storageByte_writeStorage_inside hi.storage_wf]
  · rw [hbyte, hout a ha]
  · have hrel := hfl.reload hp hin'
    simp only [hrel, storageBytes_getElem]
    exact hout _ (.inr (Nat.le_add_right _ _))

/-- Settles O45: the failed flush keeps the handle and writes inside the page only, which the retry then overwrites. -/
theorem retryLeavesStorageAsIfNothingFailed : Obligations.RetryLeavesStorageAsIfNothingFailed := by
  intro s t v hi hb hv hps hin hex hresp
  obtain ⟨f, l, hf, rfl⟩ := flushProc_of_exec_flushFail hb hv hex hresp
  have hfl := flushProc_flushed hi.flushReady hi.storage_wf hf
  have hif := hi.flushProc hf
  obtain ⟨haddr, -, hmir, -⟩ := hfl.failure rfl
  obtain ⟨hcfg, hvf, -⟩ := hfl.kept
  have hbf : f.xstatus ≠ .inProgress := by rw [hfl.frame]; exact hb
  obtain ⟨u, hu, hfu⟩ := flushProc_faultFreeFlushed
    (s := { f with resp := l, script := [], tail := .faultFree, readLimit := none }) { hif with } (hvf.trans hv)
    ⟨rfl, rfl, rfl⟩ (by rw [hcfg]; exact hps) (by rw [hcfg, haddr]; exact hin)
  obtain ⟨w, hw, hfw⟩ := flushProc_faultFreeFlushed (s := { s with script := [], tail := .faultFree, readLimit := none })
    { hi with } hv ⟨rfl, rfl, rfl⟩ hps hin
  have hst : u.storage = (writeStorage s.curAddr.toNat s.mirror s).storage := by
    rw [hfu.storage]
    refine Eq.trans ?_ (writeStorage_storage_eq hi.storage_wf hif.storage_wf hcfg fun x hx => ?_)
    · simp only [haddr, hmir]; rfl
    · exact hfl.outside x (by rwa [hi.mirror_length] at hx)
  refine ⟨_, _, exec_fweFlush_of_flushProc hbf (hvf.trans hv) hu, exec_fweFlush_of_flushProc hb hv hw, ?_, ?_, ?_⟩
  · exact hst.trans hfw.storage.symm
  · show u.offset = 0
    rw [hfu.frame]
  · have hcu : u.cfg = s.cfg := by rw [hfu.frame]; exact hcfg
    refine (storageBytes_congr (s := writeStorage s.curAddr.toNat s.mirror s) hcu hst _ _).trans ?_
    rw [← hi.mirror_length]
    exact storageBytes_writeStorage hi.storage_wf _ _

/-- Settles O46: each refusal is the first check that fails. -/
theorem refusedCommandsOnlyRespond : Obligations.RefusedCommandsOnlyRespond := by
  refine ⟨rfl, rfl, rfl, rfl, rfl, rfl, rfl, rfl, rfl, fun s a l d => ⟨fun hb i hi => ?_, fun hb => ?_⟩⟩
  · have hbusy := busy_eq_true_iff.2 hb
    simp only [List.mem_cons, List.not_mem_nil, or_false] at hi
    rcases hi with rfl | rfl | rfl | rfl <;> exact if_pos hbusy
  · have hfree := mt busy_eq_true_iff.1 hb
    refine ⟨fun ha => ?_, fun ha hin => ?_, fun hv i hi => ?_, fun hv hfull => ?_⟩
    · exact (if_neg hfree).trans (if_pos ha)
    · exact (if_neg hfree).trans ((if_neg (not_not_intro ha)).trans (if_pos hin))
    · simp only [List.mem_cons, List.not_mem_nil, or_false] at hi
      rcases hi with rfl | rfl <;> exact (if_neg hfree).trans (if_pos hv)
    · exact (if_neg hfree).trans ((if_neg (by simp [hv])).trans (if_pos hfull))

end Sys2Proof.Machine
end

section
/-! FWE_FLUSH where the oracle's script names the operation that fails (42_flash_write_engine.md R99 to R102, R108): the
erase, a unit of the program step, the verification, the lock. -/

namespace Sys2Proof.Machine

variable {s t u : State}

/-! ### The page's work, step by step -/

theorem flushPage_of_portErase_fail (hu : portUnlock s = .ok (.ok, t))
    (he : portErase t.curAddr.toNat t = .ok (.fail, u)) : flushPage s = .ok (.erase, u) := by
  simp only [flushPage, hu, bind, Except.bind, he]

theorem flushPage_of_programUnits_fail {v w : State} (hu : portUnlock s = .ok (.ok, v))
    (he : portErase v.curAddr.toNat v = .ok (.ok, w))
    (hp : programUnits (w.cfg.pageSize / w.cfg.progUnit) w.curAddr.toNat w.mirror w = .ok (.fail, u)) :
    flushPage s = .ok (.program, u) := by
  simp only [flushPage, hu, bind, Except.bind, he, hp]

theorem flushPage_of_programUnits_ok {v w : State} (hu : portUnlock s = .ok (.ok, v))
    (he : portErase v.curAddr.toNat v = .ok (.ok, w))
    (hp : programUnits (w.cfg.pageSize / w.cfg.progUnit) w.curAddr.toNat w.mirror w = .ok (.ok, u)) :
    flushPage s = verifyPage u := by
  simp only [flushPage, hu, bind, Except.bind, he, hp]

theorem programUnits_succ_fail {n a : Nat} {data : List Byte}
    (hp : portProgram a (data.take s.cfg.progUnit) s = .ok (.fail, u)) :
    programUnits (n + 1) a data s = .ok (.fail, u) := by
  simp only [programUnits, hp, bind, Except.bind]

theorem programUnits_succ_ok {n a : Nat} {data : List Byte}
    (hp : portProgram a (data.take s.cfg.progUnit) s = .ok (.ok, u)) :
    programUnits (n + 1) a data s = programUnits n (a + u.cfg.progUnit) (data.drop u.cfg.progUnit) u := by
  simp only [programUnits, hp, bind, Except.bind]

/-- A program operation whose draw succeeds (R48). -/
theorem portProgram_okDraw {a : Nat} {data bs : List Byte} {mis : List (Option Byte)} {rest : List ScriptEntry}
    (h : s.script = .draw ⟨.ok, bs, mis⟩ :: rest) (hl : s.locked = false) (ha : a % s.cfg.progUnit = 0)
    (hin : InStorage s.cfg a s.cfg.progUnit) :
    portProgram a data s = .ok (.ok, writeStorage a
      (programmedBytes s.cfg.programSemantics (storageBytes s a s.cfg.progUnit) data mis)
      { s with script := rest, drawCount := s.drawCount + 1 }) := by
  unfold portProgram
  rw [if_neg (by simp [hl, ha, hin.1, hin.2]), draw_script h]
  rfl

/-- A storage port that serves its reads and a page in storage: the read-back decides (R101). -/
theorem verifyPage_ready (hr : s.readLimit = none) (hin : InStorage s.cfg s.curAddr.toNat s.cfg.pageSize) :
    verifyPage s =
      .ok (if storageBytes s s.curAddr.toNat s.cfg.pageSize = s.mirror then .none else .verify, s) := by
  simp only [verifyPage, memRead_inStorage hr hin, bind, Except.bind]

/-- The state in which the program step starts: two draws made, the port unlocked, the page erased (R98, R99). -/
def pageErased (q : List ScriptEntry) (s : State) : State :=
  { s with
    storage := (writeStorage s.curAddr.toNat (List.replicate s.cfg.pageSize s.cfg.erasedByte) s).storage
    script := q, drawCount := s.drawCount + 2, locked := false }

theorem pageErased_wf {q : List ScriptEntry} (hm : Memory.wf s.cfg.erasedByte s.storage = true) :
    Memory.wf (pageErased q s).cfg.erasedByte (pageErased q s).storage = true := Memory_writeBytes_wf _ _ hm

theorem storageByte_pageErased {q : List ScriptEntry} (hm : Memory.wf s.cfg.erasedByte s.storage = true) (a : Nat) :
    storageByte (pageErased q s) a =
      if s.curAddr.toNat ≤ a ∧ a < s.curAddr.toNat + s.cfg.pageSize then s.cfg.erasedByte else storageByte s a := by
  refine (storageByte_writeStorage hm _ _ a).trans ?_
  rw [List.length_replicate]
  split
  · next h => rw [List.getD_replicate _ (by omega)]
  · rfl

/-- Two successful draws are the unlock and the erase: the program step starts at `pageErased` (R98, R99). -/
theorem pageErased_reached {q : List ScriptEntry} (hf : FlushReady s) (hin : Erasable s.cfg s.curAddr.toNat)
    (hs : s.script = okDraw :: okDraw :: q) :
    ∃ v, portUnlock s = .ok (.ok, v) ∧ portErase v.curAddr.toNat v = .ok (.ok, pageErased q s) :=
  ⟨_, portUnlock_script hs, portErase_okDraw rfl rfl hf.aligned hin⟩

theorem pageUnits (hf : FlushReady s) : s.cfg.pageSize / s.cfg.progUnit * s.cfg.progUnit = s.cfg.pageSize :=
  Nat.div_mul_cancel (Nat.dvd_of_mod_eq_zero hf.units)

/-- The pages are aligned to units (R6). -/
theorem unitAligned (hf : FlushReady s) : s.curAddr.toNat % s.cfg.progUnit = 0 :=
  Nat.mod_eq_zero_of_dvd ((Nat.dvd_of_mod_eq_zero hf.units).trans (Nat.dvd_of_mod_eq_zero hf.aligned))

/-- The state after `k` units of the erased page are programmed with no silent error (R100). -/
def unitsProgrammed (k : Nat) (q : List ScriptEntry) (s : State) : State :=
  { s with
    storage := (writeStorage s.curAddr.toNat (overErased s.cfg (s.mirror.take (k * s.cfg.progUnit)))
      (pageErased q s)).storage
    script := q, drawCount := s.drawCount + 2 + k, locked := false }

/-- The first `k` units succeed: the rest of the program step decides. -/
theorem programUnits_pageErased {k m : Nat} {q : List ScriptEntry} (hf : FlushReady s)
    (hm : Memory.wf s.cfg.erasedByte s.storage = true) (hin : InStorage s.cfg s.curAddr.toNat s.cfg.pageSize)
    (hk : k * s.cfg.progUnit ≤ s.cfg.pageSize) :
    programUnits (k + m) s.curAddr.toNat s.mirror (pageErased (List.replicate k okDraw ++ q) s) =
      programUnits m (s.curAddr.toNat + k * s.cfg.progUnit) (s.mirror.drop (k * s.cfg.progUnit))
        (unitsProgrammed k q s) := by
  have h := programUnits_okDraws k m (a := s.curAddr.toNat) (data := s.mirror)
    (s := pageErased (List.replicate k okDraw ++ q) s) (okDraws_script k q s.tail) rfl rfl (pageErased_wf hm)
    (fun i hi => by
      replace hi : i < k * s.cfg.progUnit := hi
      rw [storageByte_pageErased hm, if_pos (by omega)]; rfl)
    (unitAligned hf) ⟨hin.1, Nat.le_trans (Nat.add_le_add_left hk _) hin.2⟩ (by rw [hf.length]; exact hk)
  simp only [Nat.sub_self, List.replicate_zero, List.nil_append] at h
  exact h

/-- Over the erased page the first units hold what `PROGRAM_SEMANTICS` makes of the mirror (R48, R100). -/
theorem storageByte_unitsProgrammed {k : Nat} {q : List ScriptEntry} (hf : FlushReady s)
    (hm : Memory.wf s.cfg.erasedByte s.storage = true) (hk : k * s.cfg.progUnit ≤ s.cfg.pageSize) (a : Nat) :
    storageByte (unitsProgrammed k q s) a =
      if s.curAddr.toNat ≤ a ∧ a < s.curAddr.toNat + k * s.cfg.progUnit then
        programmedByte s.cfg.programSemantics s.cfg.erasedByte (s.mirror.getD (a - s.curAddr.toNat) 0)
      else storageByte (pageErased q s) a := by
  have hlen : (overErased s.cfg (s.mirror.take (k * s.cfg.progUnit))).length = k * s.cfg.progUnit := by
    rw [List.length_map, List.length_take, hf.length, Nat.min_eq_left hk]
  refine (storageByte_writeStorage (s := pageErased q s) (pageErased_wf hm) _ _ a).trans ?_
  rw [hlen]
  refine ite_congr rfl (fun h => ?_) fun _ => rfl
  have hlt : a - s.curAddr.toNat < k * s.cfg.progUnit := by omega
  have hmir : a - s.curAddr.toNat < s.mirror.length := by rw [hf.length]; omega
  rw [List.getD_eq_getElem _ _ (by rw [hlen]; exact hlt), List.getD_eq_getElem _ _ hmir, List.getElem_map,
    List.getElem_take]

theorem unitsProgrammed_wf {k : Nat} {q : List ScriptEntry} (hm : Memory.wf s.cfg.erasedByte s.storage = true) :
    Memory.wf (unitsProgrammed k q s).cfg.erasedByte (unitsProgrammed k q s).storage = true :=
  Memory_writeBytes_wf _ _ (pageErased_wf (q := q) hm)

/-- The state after `k` units and one more that fails and leaves the bytes `bs` (R48, R100). -/
def unitFailed (k : Nat) (bs : List Byte) (q : List ScriptEntry) (s : State) : State :=
  { s with
    storage := (writeStorage (s.curAddr.toNat + k * s.cfg.progUnit) bs (unitsProgrammed k q s)).storage
    script := q, drawCount := s.drawCount + 2 + k + 1, locked := false }

/-- Once every unit is programmed the page holds the mirror, where the configuration lets it (R101). -/
theorem storageBytes_unitsProgrammed_all {q : List ScriptEntry} (hf : FlushReady s)
    (hm : Memory.wf s.cfg.erasedByte s.storage = true) (hps : ProgramsAsAsked s.cfg) :
    storageBytes (unitsProgrammed (s.cfg.pageSize / s.cfg.progUnit) q s) s.curAddr.toNat s.cfg.pageSize = s.mirror := by
  have hdata : overErased s.cfg (s.mirror.take (s.cfg.pageSize / s.cfg.progUnit * s.cfg.progUnit)) = s.mirror := by
    rw [pageUnits hf, ← hf.length, List.take_length, overErased_eq hps]
  have h := storageBytes_writeStorage (pageErased_wf (q := q) hm) s.curAddr.toNat s.mirror
  rw [hf.length] at h
  rw [unitsProgrammed, hdata]
  exact h

/-- Unit `k` of the page is a unit of storage (R6, R42). -/
theorem unit_inStorage {k : Nat} (hf : FlushReady s) (hin : InStorage s.cfg s.curAddr.toNat s.cfg.pageSize)
    (hk : k < s.cfg.pageSize / s.cfg.progUnit) :
    (k + 1) * s.cfg.progUnit ≤ s.cfg.pageSize ∧ (s.curAddr.toNat + k * s.cfg.progUnit) % s.cfg.progUnit = 0 ∧
      InStorage s.cfg (s.curAddr.toNat + k * s.cfg.progUnit) s.cfg.progUnit := by
  have hle : (k + 1) * s.cfg.progUnit ≤ s.cfg.pageSize := pageUnits hf ▸ Nat.mul_le_mul_right _ hk
  refine ⟨hle, by rw [Nat.add_mul_mod_self_right]; exact unitAligned hf, Nat.le_add_right_of_le hin.1, ?_⟩
  rw [Nat.add_assoc, ← Nat.succ_mul]
  exact Nat.le_trans (Nat.add_le_add_left hle _) hin.2

/-! ### A silent error in one unit (R48) -/

/-- The state after `k` units and one more with the silent error `mis`. -/
def unitMisprogrammed (k : Nat) (mis : List (Option Byte)) (q : List ScriptEntry) (s : State) : State :=
  { s with
    storage := (writeStorage (s.curAddr.toNat + k * s.cfg.progUnit)
      (programmedBytes s.cfg.programSemantics
        (storageBytes (unitsProgrammed k (.draw ⟨.ok, [], mis⟩ :: q) s) (s.curAddr.toNat + k * s.cfg.progUnit)
          s.cfg.progUnit)
        ((s.mirror.drop (k * s.cfg.progUnit)).take s.cfg.progUnit) mis)
      (unitsProgrammed k (.draw ⟨.ok, [], mis⟩ :: q) s)).storage
    script := q, drawCount := s.drawCount + 2 + k + 1, locked := false }

/-- The byte of the silent error is the one that lands. -/
theorem programmedBytes_silentError {p : ProgramSemantics} {old want : List Byte} {mis : List (Option Byte)} {j : Nat}
    {b : Byte} (hj : j < (programmedBytes p old want mis).length) (hmis : mis[j]? = some (some b)) :
    (programmedBytes p old want mis)[j] = b := by
  simp [programmedBytes, hmis]

theorem unitMisprogrammed_length {k : Nat} {mis : List (Option Byte)} {old : List Byte} (hf : FlushReady s)
    (hk : (k + 1) * s.cfg.progUnit ≤ s.cfg.pageSize) (hold : old.length = s.cfg.progUnit) :
    (programmedBytes s.cfg.programSemantics old ((s.mirror.drop (k * s.cfg.progUnit)).take s.cfg.progUnit) mis).length =
      s.cfg.progUnit := by
  rw [Nat.add_mul, Nat.one_mul] at hk
  rw [programmedBytes_length, hold, List.length_take, List.length_drop, hf.length]
  omega

theorem unitMisprogrammed_wf {k : Nat} {mis : List (Option Byte)} {q : List ScriptEntry}
    (hm : Memory.wf s.cfg.erasedByte s.storage = true) :
    Memory.wf (unitMisprogrammed k mis q s).cfg.erasedByte (unitMisprogrammed k mis q s).storage = true :=
  Memory_writeBytes_wf _ _ (unitsProgrammed_wf (k := k) (q := .draw ⟨.ok, [], mis⟩ :: q) hm)

/-- Above unit `k` the page is still erased. -/
theorem storageByte_unitMisprogrammed_above {k a : Nat} {mis : List (Option Byte)} {q : List ScriptEntry}
    (hf : FlushReady s) (hm : Memory.wf s.cfg.erasedByte s.storage = true)
    (hk : (k + 1) * s.cfg.progUnit ≤ s.cfg.pageSize) (hlo : s.curAddr.toNat + (k + 1) * s.cfg.progUnit ≤ a)
    (hhi : a < s.curAddr.toNat + s.cfg.pageSize) :
    storageByte (unitMisprogrammed k mis q s) a = s.cfg.erasedByte := by
  have hlen := unitMisprogrammed_length (mis := mis) hf hk (storageBytes_length
    (unitsProgrammed k (.draw ⟨.ok, [], mis⟩ :: q) s) (s.curAddr.toNat + k * s.cfg.progUnit) s.cfg.progUnit)
  rw [Nat.add_mul, Nat.one_mul] at hk hlo
  have hout := storageByte_writeStorage_outside (s := unitsProgrammed k (.draw ⟨.ok, [], mis⟩ :: q) s)
    (unitsProgrammed_wf (k := k) (q := .draw ⟨.ok, [], mis⟩ :: q) hm) (a := s.curAddr.toNat + k * s.cfg.progUnit)
    (x := a) (.inr (by rw [hlen]; omega))
  have hread := storageByte_unitsProgrammed (q := .draw ⟨.ok, [], mis⟩ :: q) hf hm (k := k) (by omega) a
  rw [if_neg (by omega), storageByte_pageErased hm, if_pos (by omega)] at hread
  exact hout.trans hread

/-- In unit `k` the byte of the silent error has landed. -/
theorem storageByte_unitMisprogrammed_error {k j : Nat} {b : Byte} {mis : List (Option Byte)} {q : List ScriptEntry}
    (hf : FlushReady s) (hm : Memory.wf s.cfg.erasedByte s.storage = true)
    (hk : (k + 1) * s.cfg.progUnit ≤ s.cfg.pageSize) (hj : j < s.cfg.progUnit) (hmis : mis[j]? = some (some b)) :
    storageByte (unitMisprogrammed k mis q s) (s.curAddr.toNat + k * s.cfg.progUnit + j) = b := by
  have hlen := unitMisprogrammed_length (mis := mis) hf hk (storageBytes_length
    (unitsProgrammed k (.draw ⟨.ok, [], mis⟩ :: q) s) (s.curAddr.toNat + k * s.cfg.progUnit) s.cfg.progUnit)
  have hin := storageByte_writeStorage_inside (s := unitsProgrammed k (.draw ⟨.ok, [], mis⟩ :: q) s)
    (unitsProgrammed_wf (k := k) (q := .draw ⟨.ok, [], mis⟩ :: q) hm) (s.curAddr.toNat + k * s.cfg.progUnit)
    (i := j) (by rw [hlen]; exact hj)
  exact hin.trans (programmedBytes_silentError _ hmis)

/-- After a silent error in unit `k` the program step goes on to its end: the wrong byte stays, and nothing but storage, the
lock and the draws has changed (R48, R100). -/
theorem programUnits_silentError {k m j : Nat} {b : Byte} {mis : List (Option Byte)} {q : List ScriptEntry}
    (hf : FlushReady s) (hm : Memory.wf s.cfg.erasedByte s.storage = true)
    (hin : InStorage s.cfg s.curAddr.toNat s.cfg.pageSize) (hunits : s.cfg.pageSize / s.cfg.progUnit = k + m + 1)
    (hj : j < s.cfg.progUnit) (hmis : mis[j]? = some (some b)) :
    ∃ w, programUnits (s.cfg.pageSize / s.cfg.progUnit) s.curAddr.toNat s.mirror
        (pageErased (List.replicate k okDraw ++ .draw ⟨.ok, [], mis⟩ :: (List.replicate m okDraw ++ q)) s) =
          .ok (.ok, w) ∧
      w = { s with storage := w.storage, script := q, locked := false, drawCount := w.drawCount } ∧
      storageByte w (s.curAddr.toNat + (k * s.cfg.progUnit + j)) = b := by
  obtain ⟨hle, hal, hins⟩ := unit_inStorage (k := k) hf hin (by omega)
  have htotal : (k + 1) * s.cfg.progUnit + m * s.cfg.progUnit = s.cfg.pageSize := by
    rw [← pageUnits hf, hunits]; ring
  have hsucc : (k + 1) * s.cfg.progUnit = k * s.cfg.progUnit + s.cfg.progUnit := by rw [Nat.add_mul, Nat.one_mul]
  have hok : portProgram (s.curAddr.toNat + k * s.cfg.progUnit)
      ((s.mirror.drop (k * s.cfg.progUnit)).take s.cfg.progUnit)
      (unitsProgrammed k (.draw ⟨.ok, [], mis⟩ :: (List.replicate m okDraw ++ q)) s) =
        .ok (.ok, unitMisprogrammed k mis (List.replicate m okDraw ++ q) s) :=
    portProgram_okDraw (bs := []) (mis := mis) (rest := List.replicate m okDraw ++ q) rfl rfl hal hins
  have hfirst := (programUnits_pageErased (m := m + 1) hf hm hin (by omega)).trans (programUnits_succ_ok hok)
  rw [← Nat.add_assoc, ← hunits] at hfirst
  have habove : InStorage s.cfg (s.curAddr.toNat + k * s.cfg.progUnit + s.cfg.progUnit) (m * s.cfg.progUnit) :=
    ⟨Nat.le_trans hin.1 (by omega), Nat.le_trans (by omega) hin.2⟩
  have hrest := programUnits_okDraws m 0 (a := s.curAddr.toNat + k * s.cfg.progUnit + s.cfg.progUnit)
    (data := (s.mirror.drop (k * s.cfg.progUnit)).drop s.cfg.progUnit)
    (s := unitMisprogrammed k mis (List.replicate m okDraw ++ q) s)
    (okDraws_script m q s.tail) rfl rfl (unitMisprogrammed_wf hm)
    (fun i hi => by
      replace hi : i < m * s.cfg.progUnit := hi
      exact storageByte_unitMisprogrammed_above hf hm hle (by omega) (by omega))
    ((Nat.add_mod_right _ _).trans hal) habove
    (by
      rw [List.length_drop, List.length_drop, hf.length]
      show m * s.cfg.progUnit ≤ _
      omega)
  rw [Nat.sub_self, List.replicate_zero, List.nil_append] at hrest
  refine ⟨_, hfirst.trans hrest, rfl, ?_⟩
  rw [← Nat.add_assoc]
  exact (storageByte_writeStorage_outside (s := unitMisprogrammed k mis (List.replicate m okDraw ++ q) s)
    (unitMisprogrammed_wf hm) (.inl (by omega))).trans (storageByte_unitMisprogrammed_error hf hm hle hj hmis)

/-! ### The lock step and the response -/

/-- FWE_FLUSH after work on the page and a lock that leave a cause: the fault is set and logged, and answered with the
cause's number (R102, R104, R105). -/
theorem exec_fweFlush_of_lockCause {c : FaultCause} {l : Draw} {q : List ScriptEntry} (hb : s.xstatus ≠ .inProgress)
    (hv : s.fweValid = true) (hp : flushPage s = .ok (c, u)) (hs : u.script = .draw l :: q)
    (hc : lockCause c l.result ≠ .none) :
    exec .fweFlush s = .next { u with
      script := q, drawCount := u.drawCount + 1, locked := true, fweFault := true, fweCause := lockCause c l.result
      diag := u.diag ++ [.storageFault (lockCause c l.result)]
      resp := u.resp ++ [⟨.flushFail, (causeCode (lockCause c l.result)).setWidth 32⟩] } := by
  have hf : flushProc s = .ok (.fail, storageFault (lockCause c l.result)
      { u with script := q, drawCount := u.drawCount + 1, locked := true }) := by
    unfold flushProc
    rw [if_pos hv, hp]
    simp only [bind, Except.bind, portLock_script hs]
  exact exec_fweFlush_of_flushProc_fail hb hv hf

/-! ### The statements -/

/-- Settles O41: the erase is refused at its range check, or its draw fails and its bytes land in the page. -/
theorem failedEraseStopsTheFlush : Obligations.FailedEraseStopsTheFlush := by
  intro s l rest hi hb hv
  refine ⟨fun hs hin => ?_, fun bs hbs hs hin => ?_⟩
  · have hp := flushPage_of_portErase_fail (portUnlock_script hs) (portErase_refused (.inr (.inr hin)))
    refine (exec_fweFlush_of_lockCause hb hv hp rfl (by nofun)).trans ?_
    rw [hi.locked]
    rfl
  · have hp := flushPage_of_portErase_fail (portUnlock_script hs)
      (portErase_failDraw rfl hbs rfl hi.aligned hin)
    refine ⟨_, exec_fweFlush_of_lockCause hb hv hp rfl (by nofun), ?_, ?_, fun a ha => ?_⟩
    · rw [hi.locked]
      rfl
    · rw [← hbs]
      exact storageBytes_writeStorage (s := s) hi.storage_wf _ _
    · exact (flushPage_step hi.flushReady hp).1.outside hi.storage_wf a ha

/-- Settles O42: `k` units succeed, and the next draw fails and leaves its bytes in unit `k`. -/
theorem firstFailedUnitStopsTheProgramStep : Obligations.FirstFailedUnitStopsTheProgramStep := by
  intro s k bs l rest hi hb hv hin hk hbs hs
  have hf := hi.flushReady
  have hm := hi.storage_wf
  obtain ⟨hle, hal, hins⟩ := unit_inStorage hf hin.1 hk
  rw [Nat.add_mul, Nat.one_mul] at hle
  obtain ⟨v, hu, he⟩ := pageErased_reached hf hin
    (q := List.replicate k okDraw ++ failDraw bs :: .draw l :: rest) (by rw [hs, Nat.add_comm]; rfl)
  obtain ⟨m, hunits⟩ := Nat.exists_eq_add_of_lt hk
  have hfail : portProgram (s.curAddr.toNat + k * s.cfg.progUnit)
      ((s.mirror.drop (k * s.cfg.progUnit)).take s.cfg.progUnit)
      (unitsProgrammed k (failDraw bs :: .draw l :: rest) s) = .ok (.fail, unitFailed k bs (.draw l :: rest) s) :=
    portProgram_failDraw (bs := bs) (rest := .draw l :: rest) rfl hbs rfl hal hins
  have hprog := (programUnits_pageErased (m := m + 1) hf hm hin.1 (by omega)).trans (programUnits_succ_fail hfail)
  rw [← Nat.add_assoc, ← hunits] at hprog
  have hp := flushPage_of_programUnits_fail hu he hprog
  refine ⟨_, exec_fweFlush_of_lockCause hb hv hp rfl (by nofun), ?_, fun a => ?_⟩
  · rw [hi.locked, show s.drawCount + (k + 4) = s.drawCount + 2 + k + 1 + 1 by omega]
    rfl
  · have hread := storageByte_writeStorage (unitsProgrammed_wf (k := k) (q := .draw l :: rest) hm)
      (s.curAddr.toNat + k * s.cfg.progUnit) bs a
    refine (storageByte_congr rfl rfl a).trans (hread.trans ?_)
    rw [storageByte_unitsProgrammed hf hm (by omega), storageByte_pageErased hm, hbs, Nat.add_mul, Nat.one_mul]
    by_cases hout : a < s.curAddr.toNat ∨ s.curAddr.toNat + s.cfg.pageSize ≤ a
    · rw [if_pos hout, if_neg (by omega), if_neg (by omega), if_neg (by omega)]
    rw [if_neg hout]
    by_cases hbelow : a < s.curAddr.toNat + k * s.cfg.progUnit
    · rw [if_pos hbelow, if_neg (by omega), if_pos (by omega)]
      cases s.cfg.programSemantics <;> rfl
    rw [if_neg hbelow]
    by_cases hunit : a < s.curAddr.toNat + (k * s.cfg.progUnit + s.cfg.progUnit)
    · rw [if_pos hunit, if_pos (by omega)]
    · rw [if_neg hunit, if_neg (by omega), if_neg (by omega), if_pos (by omega)]

/-- Settles O43: the byte that lands in unit `k` stays to the read-back, which then is not the mirror. -/
theorem silentProgramErrorFailsTheVerify : Obligations.SilentProgramErrorFailsTheVerify := by
  intro s k j b mis l rest hi hr hb hv hin hk hj hmis hne hs
  have hf := hi.flushReady
  have hm := hi.storage_wf
  obtain ⟨m, hunits⟩ := Nat.exists_eq_add_of_lt hk
  rw [show s.cfg.pageSize / s.cfg.progUnit - (k + 1) = m by omega] at hs
  obtain ⟨v, hu, he⟩ := pageErased_reached hf hin
    (q := List.replicate k okDraw ++ .draw ⟨.ok, [], mis⟩ :: (List.replicate m okDraw ++ .draw l :: rest))
    (by rw [hs, Nat.add_comm]; rfl)
  obtain ⟨w, hprog, hw, hbyte⟩ := programUnits_silentError (q := .draw l :: rest) hf hm hin.1 hunits hj hmis
  have hback := verifyPage_ready (s := w) (by rw [hw]; exact hr) (by rw [hw]; exact hin.1)
  have hdiffers : storageBytes w w.curAddr.toNat w.cfg.pageSize ≠ w.mirror := fun heq => by
    have hwm : w.mirror = s.mirror := by rw [hw]
    have hwc : w.curAddr = s.curAddr := by rw [hw]
    have hpos : k * s.cfg.progUnit + j < s.mirror.length := by
      have := (unit_inStorage hf hin.1 hk).1
      rw [Nat.add_mul, Nat.one_mul] at this
      rw [hf.length]
      omega
    rw [hwm, hwc, storageBytes_eq_iff] at heq
    exact hne (List.getElem?_eq_some_iff.2 ⟨hpos, (heq.2 _ hpos).symm.trans hbyte⟩)
  rw [if_neg hdiffers] at hback
  have hp := (flushPage_of_programUnits_ok hu he hprog).trans hback
  have hex := exec_fweFlush_of_lockCause hb hv hp (by rw [hw]) (by nofun)
  refine ⟨_, hex, ?_, hbyte, fun a ha => ?_⟩
  · rw [hi.locked]
    conv_lhs => rw [hw]
    rfl
  · exact (flushPage_step hf hp).1.outside hm a ha

/-- Settles O44: every unit succeeds, the page holds the mirror, and the lock's failure is the first cause. -/
theorem failedLockFailsAWrittenFlush : Obligations.FailedLockFailsAWrittenFlush := by
  intro s bs rest hi hr hb hv hps hin hs
  have hf := hi.flushReady
  have hm := hi.storage_wf
  obtain ⟨v, hu, he⟩ := pageErased_reached hf hin
    (q := List.replicate (s.cfg.pageSize / s.cfg.progUnit) okDraw ++ failDraw bs :: rest)
    (by rw [hs, Nat.add_comm]; rfl)
  have hprog := programUnits_pageErased (m := 0) (q := failDraw bs :: rest) hf hm hin.1 (pageUnits hf).le
  have hpage := storageBytes_unitsProgrammed_all (q := failDraw bs :: rest) hf hm hps
  have hback := verifyPage_ready (s := unitsProgrammed (s.cfg.pageSize / s.cfg.progUnit) (failDraw bs :: rest) s)
    hr hin.1
  have hp := (flushPage_of_programUnits_ok hu he hprog).trans (hback.trans (by rw [if_pos]; exact hpage))
  refine ⟨_, exec_fweFlush_of_lockCause hb hv hp rfl (by nofun), ?_, hpage, fun a ha => ?_⟩
  · rw [hi.locked]
    rfl
  · exact (flushPage_step hf hp).1.outside hm a ha

end Sys2Proof.Machine
end

section
/-! VER_VERIFY (41_image_verifier.md R86 to R92): the condition on the storage bytes that it answers, and nothing else. -/

namespace Sys2Proof.Machine

variable {s t : State}

/-- The acceptance condition of R92 on the storage bytes of the image at `a`. -/
abbrev ImageAccepted (s : State) (a : Nat) : Prop :=
  InStorage s.cfg a s.cfg.header.hdrSize ∧
  headerAccepted s.cfg a (storageBytes s a s.cfg.header.hdrSize) ∧
  crc16 (storageBytes s (a + s.cfg.header.hdrSize)
      (headerSize s.cfg.header (storageBytes s a s.cfg.header.hdrSize))) =
    headerChecksum s.cfg.header (storageBytes s a s.cfg.header.hdrSize)

/-- The value that VER_VERIFY answers. -/
def verdict (s : State) (a : Nat) : Word := if decide (ImageAccepted s a) then 1 else 0

theorem verdict_eq_one_iff {a : Nat} : verdict s a = 1 ↔ ImageAccepted s a := by
  by_cases h : ImageAccepted s a
  · exact iff_of_true (if_pos (decide_eq_true h)) h
  · refine iff_of_false ?_ h
    rw [verdict, if_neg (mt of_decide_eq_true h)]
    decide

theorem verdict_zero_or_one (s : State) (a : Nat) : verdict s a = 0 ∨ verdict s a = 1 := by
  unfold verdict
  split
  · exact .inr rfl
  · exact .inl rfl

theorem exec_verVerify_ready {a : Word} (hr : s.readLimit = none) :
    exec (.verVerify a) s = .next { s with resp := s.resp ++ [⟨.ok, verdict s a.toNat⟩] } := by
  simp only [exec, execVerVerify, verifies_ready a.toNat hr, bind, Except.bind]
  rfl

/-- The verdict depends on the configuration and the storage contents alone (R89). -/
theorem verdict_congr (hc : t.cfg = s.cfg) (hs : t.storage = s.storage) (a : Nat) : verdict t a = verdict s a := by
  have h : ImageAccepted t a ↔ ImageAccepted s a := by simp only [ImageAccepted, hc, storageBytes_congr hc hs]
  rw [verdict, verdict, decide_eq_decide.2 h]

/-- The number of four bytes, least significant first. -/
theorem sum_four_bytes (f : Nat → Nat) (off : Nat) :
    ((List.range 4).map fun j => 2 ^ (8 * j) * f (off + j)).sum =
      f off + 2 ^ 8 * f (off + 1) + 2 ^ 16 * f (off + 2) + 2 ^ 24 * f (off + 3) := by
  simp [List.range_succ, Nat.add_assoc]

theorem sum_two_bytes (f : Nat → Nat) (off : Nat) :
    ((List.range 2).map fun j => 2 ^ (8 * j) * f (off + j)).sum = f off + 2 ^ 8 * f (off + 1) := by
  simp [List.range_succ]

/-! ### The statements -/

/-- Settles O47: each header field is the number its storage bytes make, and the record of R77 puts them at its offsets. -/
theorem verifyAcceptsExactly : Obligations.VerifyAcceptsExactly := by
  intro a s hr hfit l h field size
  obtain ⟨hmagicFits, hsizeFits, -, hchecksumFits, -⟩ := hfit
  have hmagic : headerMagic l (storageBytes s a.toNat l.hdrSize) = field l.magicOffset l.magicWidth :=
    headerField_eq _ hmagicFits _
  have hsize : headerSize l (storageBytes s a.toNat l.hdrSize) = size := headerField_eq _ hsizeFits _
  have hchecksum : headerField l.order l.checksumOffset 2 (storageBytes s a.toNat l.hdrSize) =
      field l.checksumOffset 2 := headerField_eq _ hchecksumFits _
  have hiff : verdict s a.toNat = 1 ↔
      InStorage s.cfg a.toNat l.hdrSize ∧ field l.magicOffset l.magicWidth = l.magic ∧ 0 < size ∧
      size ≤ slotCapacity s.cfg ∧ InStorage s.cfg (a.toNat + l.hdrSize) size ∧
      (crc16 (storageBytes s (a.toNat + l.hdrSize) size)).toNat = field l.checksumOffset 2 := by
    rw [verdict_eq_one_iff, ImageAccepted, headerAccepted, eq_headerChecksum_iff, hmagic, hsize, hchecksum,
      Nat.pos_iff_ne_zero]
    tauto
  refine ⟨_, exec_verVerify_ready hr, verdict_zero_or_one s _, hiff, fun hl => ?_⟩
  have hlittle : l.order = .little := congrArg HeaderLayout.order hl
  have hhdr : l.hdrSize = 16 := congrArg HeaderLayout.hdrSize hl
  have hword : ∀ off, field off 4 = h off + 2 ^ 8 * h (off + 1) + 2 ^ 16 * h (off + 2) + 2 ^ 24 * h (off + 3) :=
    fun off => by simp only [field, hlittle]; exact sum_four_bytes h off
  have hhalf : ∀ off, field off 2 = h off + 2 ^ 8 * h (off + 1) :=
    fun off => by simp only [field, hlittle]; exact sum_two_bytes h off
  have hm : field l.magicOffset l.magicWidth = _ := (congr (congrArg field (congrArg HeaderLayout.magicOffset hl))
    (congrArg HeaderLayout.magicWidth hl)).trans (hword 0)
  have hs : size = _ := (congr (congrArg field (congrArg HeaderLayout.sizeOffset hl))
    (congrArg HeaderLayout.sizeWidth hl)).trans (hword 4)
  have hc : field l.checksumOffset 2 = _ := (congrArg (field · 2) (congrArg HeaderLayout.checksumOffset hl)).trans
    (hhalf 12)
  rw [hhdr, hm, hs, hc] at hiff
  exact hiff

/-- Settles O48: the verdict is a function of configuration and storage, and verification keeps all but the reads left. -/
theorem verifyIsPure : Obligations.VerifyIsPure := by
  refine ⟨fun a s t hs ht hc hm => ⟨_, exec_verVerify_ready hs, ?_⟩, fun a s t h => ?_⟩
  · rw [exec_verVerify_ready ht, verdict_congr hc hm]
  · obtain ⟨v, l, -, rfl⟩ := exec_verVerify_next h
    exact ⟨v, rfl⟩

end Sys2Proof.Machine
end

section
/-! What each instruction leaves alone, said once for all of them, and the rules of the whole machine that follow: the bytes
sent (43_transfer_protocol.md R127), the transition graph (R123), the writers of `xstatus` and of the fault flag (10_state.md
R12, R16, R20), the frame of storage (20_memory.md R41). -/

namespace Sys2Proof.Machine

variable {s t u : State}

/-! ### The frame of every instruction -/

/-- The instructions that may run FlushProc (R105, R112, R119). -/
def mayFlush : Instr → Bool
  | .xfrEot | .xfrCrclo _ | .fweFlush => true
  | _ => false

/-- The instructions that may send a byte (R127). -/
def maySend : Instr → Bool
  | .xfrEot | .xfrBlkinv _ | .xfrCrclo _ | .xfrProbe => true
  | _ => false

/-- The instructions that may read through the storage port outside a flush (R86, R93). -/
def mayRead : Instr → Bool
  | .fweInit _ | .verVerify _ => true
  | _ => false

/-- The instructions that may write `xstatus` (R20). -/
def mayWriteStatus : Instr → Bool
  | .xfrSoh | .xfrStx | .xfrEot | .xfrCan | .xfrStart => true
  | _ => false

/-- FWE_INIT, the one writer of `fwe_valid` and the one that clears the fault (R12, R16). -/
def isInit : Instr → Bool
  | .fweInit _ => true
  | _ => false

/-- FWE_STAGE, which writes the mirror without a port (R96). -/
def isStage : Instr → Bool
  | .fweStage _ _ => true
  | _ => false

/-- What instruction `i` may have changed from `s` to `t`. -/
structure ExecFrame (i : Instr) (s t : State) : Prop where
  cfg : t.cfg = s.cfg
  storage : mayFlush i = false → t.storage = s.storage ∧ t.locked = s.locked
  handle : mayFlush i = false → isInit i = false → isStage i = false →
    t.curAddr = s.curAddr ∧ t.offset = s.offset ∧ t.mirror = s.mirror
  tx : maySend i = false → t.tx = s.tx
  ports : mayFlush i = false → maySend i = false → mayRead i = false →
    t.script = s.script ∧ t.readLimit = s.readLimit ∧ t.txLimit = s.txLimit
  xstatus : mayWriteStatus i = false → t.xstatus = s.xstatus
  fweValid : isInit i = false → t.fweValid = s.fweValid
  fweFault : isInit i = false → s.fweFault = true → t.fweFault = true

theorem ExecFrame.of_respond {i : Instr} (h : ExecFrame i s t) (c : RespCode) (v : Word) :
    ExecFrame i s (respond c v t) := { h with }

theorem ExecFrame.refl (i : Instr) (s : State) : ExecFrame i s s :=
  ⟨rfl, fun _ => ⟨rfl, rfl⟩, fun _ _ _ => ⟨rfl, rfl, rfl⟩, fun _ => rfl, fun _ _ _ => ⟨rfl, rfl, rfl⟩, fun _ => rfl,
    fun _ => rfl, fun _ => id⟩

/-- An instruction that may send, and changes nothing else that the frame speaks of. -/
theorem ExecFrame.of_sent {i : Instr} (hi : maySend i = true)
    (h : t = { s with
      tx := t.tx, txLimit := t.txLimit, diag := t.diag, blkInv := t.blkInv, crcRx := t.crcRx, crcCalc := t.crcCalc
      xstate := t.xstate }) : ExecFrame i s t := by
  rw [h]
  exact { ExecFrame.refl i s with
    tx := fun h => by rw [hi] at h; cases h
    ports := fun _ h => by rw [hi] at h; cases h }

/-- Every instruction. -/
theorem exec_frame {i : Instr} (h : exec i s = .next t) : ExecFrame i s t := by
  cases i with
  | xfrSoh | xfrStx | xfrCan => cases h; exact { ExecFrame.refl _ s with xstatus := nofun }
  | xfrNoise | xfrBlknum | xfrData | xfrCrchi => cases h; exact { ExecFrame.refl _ s with }
  | xfrEot =>
    obtain ⟨s1, r, s2, hs, hf, rfl⟩ := exec_xfrEot_next h
    have h1 := send_ok hs
    rcases hf with ⟨-, hf⟩ | ⟨-, -, rfl⟩
    · obtain ⟨-, h2, hfault, -⟩ := flushProc_frame hf
      rw [h1] at h2 hfault
      rw [h2]
      exact { ExecFrame.refl _ s with
        storage := nofun, handle := nofun, tx := nofun, ports := nofun, xstatus := nofun, fweFault := fun _ => hfault }
    · rw [h1]
      exact { ExecFrame.refl _ s with tx := nofun, ports := nofun, xstatus := nofun }
  | xfrBlkinv b =>
    rcases exec_xfrBlkinv_next h with ⟨-, rfl⟩ | ⟨-, hf⟩
    · exact { ExecFrame.refl _ s with }
    · exact .of_sent rfl (by rw [protocolFault_ok hf])
  | xfrCrclo b =>
    rcases exec_xfrCrclo_next h with ⟨d, hf⟩ | hs | ⟨-, -, ha⟩
    · exact .of_sent rfl (by rw [protocolFault_ok hf]; rfl)
    · exact .of_sent rfl (by rw [send_ok hs]; rfl)
    · obtain ⟨h1, hfault, -⟩ := acceptPacket_frame ha
      rw [h1]
      exact { ExecFrame.refl _ s with
        storage := nofun, handle := nofun, tx := nofun, ports := nofun, fweFault := fun _ => hfault }
  | xfrStart =>
    rcases exec_xfrStart_next h with rfl | rfl
    · exact (ExecFrame.refl _ s).of_respond _ _
    · exact { ExecFrame.refl _ s with xstatus := nofun }
  | xfrProbe =>
    rcases exec_xfrProbe_next h with ⟨-, u, hs, rfl⟩ | ⟨-, rfl⟩
    · exact (ExecFrame.of_sent rfl (by rw [send_ok hs])).of_respond _ _
    · exact (ExecFrame.refl _ s).of_respond _ _
  | rdreg n => obtain ⟨c, v, rfl⟩ := exec_rdreg_next h; exact (ExecFrame.refl _ s).of_respond c v
  | fweInit a =>
    rcases exec_fweInit_next h with ⟨c, rfl⟩ | ⟨-, -, -, l, -, rfl⟩
    · exact (ExecFrame.refl _ s).of_respond _ _
    · exact { ExecFrame.refl _ s with handle := nofun, ports := nofun, fweValid := nofun, fweFault := nofun }
  | fweStage l d =>
    rcases exec_fweStage_next h with ⟨c, rfl⟩ | ⟨-, -, -, rfl⟩
    · exact (ExecFrame.refl _ s).of_respond _ _
    · exact { ExecFrame.refl _ s with handle := nofun }
  | fweFlush =>
    rcases exec_fweFlush_next h with ⟨c, rfl⟩ | ⟨-, -, r, u, c, v, hf, rfl⟩
    · exact (ExecFrame.refl _ s).of_respond _ _
    · obtain ⟨-, h1, hfault, -⟩ := flushProc_frame hf
      rw [h1]
      exact { ExecFrame.refl _ s with
        storage := nofun, handle := nofun, ports := nofun, fweFault := fun _ => hfault }
  | verVerify a =>
    obtain ⟨v, l, -, rfl⟩ := exec_verVerify_next h
    exact { ExecFrame.refl _ s with ports := nofun }

/-! ### Storage (R41, R108) -/

/-- An instruction leaves storage and the lock as they were, or as one FlushProc left them that began with the same handle
address and the same storage. -/
theorem exec_storage {i : Instr} (hi : Inv s) (h : exec i s = .next t) :
    (t.storage = s.storage ∧ t.locked = s.locked) ∨
    ∃ v u r, Flushed v u r ∧ v.curAddr = s.curAddr ∧ v.cfg = s.cfg ∧ v.storage = s.storage ∧
      t.storage = u.storage ∧ t.locked = u.locked := by
  have flushed : ∀ {v u r}, Inv v → flushProc v = .ok (r, u) → Flushed v u r := fun hv hf =>
    flushProc_flushed hv.flushReady hv.storage_wf hf
  cases i with
  | xfrEot =>
    obtain ⟨v, r, u, hs, hf, rfl⟩ := exec_xfrEot_next h
    have hv := send_ok hs
    rcases hf with ⟨-, hf⟩ | ⟨-, -, rfl⟩
    · exact .inr ⟨v, u, r, flushed (hi.send hs) hf, by rw [hv], by rw [hv], by rw [hv], rfl, rfl⟩
    · exact .inl ⟨by rw [hv]; rfl, by rw [hv]; rfl⟩
  | xfrCrclo b =>
    have hic := hi.checksummed b
    rcases exec_xfrCrclo_next h with ⟨d, hf⟩ | hs | ⟨-, -, ha⟩
    · rw [protocolFault_ok hf]; exact .inl ⟨rfl, rfl⟩
    · rw [send_ok hs]; exact .inl ⟨rfl, rfl⟩
    · rcases acceptPacket_ok ha with ⟨-, rfl⟩ | ⟨-, -, hf⟩ | ⟨-, u, w, hu, hst, hs⟩
      · exact .inl ⟨rfl, rfl⟩
      · exact .inr ⟨checksummed b s, t, .fail, flushed hic hf, rfl, rfl, rfl, rfl, rfl⟩
      · rw [send_ok hs, (stage_ok hst).2.2]
        rcases hu with ⟨-, hf⟩ | ⟨-, rfl⟩
        · exact .inr ⟨checksummed b s, u, .ok, flushed hic hf, rfl, rfl, rfl, rfl, rfl⟩
        · exact .inl ⟨rfl, rfl⟩
  | fweFlush =>
    rcases exec_fweFlush_next h with ⟨c, rfl⟩ | ⟨-, -, r, u, c, v, hf, rfl⟩
    · exact .inl ⟨rfl, rfl⟩
    · exact .inr ⟨s, u, r, flushed hi hf, rfl, rfl, rfl, rfl, rfl⟩
  | _ => exact .inl ((exec_frame h).storage rfl)

/-! ### The bytes sent (R127) -/

theorem send_tx {b : Byte} (h : send b s = .ok t) : t.tx = s.tx ++ [b] := by rw [send_ok h]

theorem protocolFault_tx {d : Diag} (h : protocolFault d s = .ok t) : t.tx = s.tx ++ [nak] := by
  rw [protocolFault_ok h]

theorem exec_xfrEot_tx (h : exec .xfrEot s = .next t) : t.tx = s.tx ++ [ack] := by
  obtain ⟨v, r, u, hs, hf, rfl⟩ := exec_xfrEot_next h
  rw [← send_tx hs]
  rcases hf with ⟨-, hf⟩ | ⟨-, -, rfl⟩
  · show u.tx = v.tx
    rw [(flushProc_frame hf).2.1]
  · rfl

theorem exec_xfrCrclo_tx {b : Byte} (h : exec (.xfrCrclo b) s = .next t) :
    t.tx = s.tx ∨ t.tx = s.tx ++ [ack] ∨ t.tx = s.tx ++ [nak] := by
  rcases exec_xfrCrclo_next h with ⟨d, hf⟩ | hs | ⟨-, -, ha⟩
  · exact .inr (.inr ((protocolFault_tx hf :)))
  · exact .inr (.inl ((send_tx hs :)))
  · obtain ⟨-, -, ⟨htx, -⟩ | ⟨-, htx, -⟩⟩ := acceptPacket_frame ha
    · exact .inl htx
    · exact .inr (.inl htx)

/-! ### The statements -/

/-- Settles O50: a flush writes inside its page and locks the port, and no other part of an instruction touches either. -/
theorem onlyFlushesWriteStorage : Obligations.OnlyFlushesWriteStorage := by
  intro i s t hi h
  have hc := (exec_frame h).cfg
  refine ⟨fun a ha => ?_, fun heot hflush hcrclo => ?_, ?_⟩
  · rcases exec_storage hi h with ⟨hst, -⟩ | ⟨v, u, r, hfl, hva, hvc, hvs, hst, -⟩
    · exact storageByte_congr hc hst a
    · calc storageByte t a = storageByte u a := storageByte_congr (by rw [hc, hfl.kept.1, hvc]) hst a
        _ = storageByte v a := hfl.outside a (by rw [hva, hvc]; exact ha)
        _ = storageByte s a := storageByte_congr hvc hvs a
  · have hno : mayFlush i = false := by
      cases i with
      | xfrEot => exact absurd rfl heot
      | fweFlush => exact absurd rfl hflush
      | xfrCrclo b => exact absurd rfl (hcrclo b)
      | _ => rfl
    exact ((exec_frame h).storage hno).1
  · rcases exec_storage hi h with ⟨-, hl⟩ | ⟨v, u, r, hfl, -, -, -, -, hl⟩
    · exact hl.trans hi.locked
    · exact hl.trans hfl.locked

/-- Settles O51: the four rules that may send, one by one; the frame says that the others do not. -/
theorem bytesSentByEachRule : Obligations.BytesSentByEachRule := by
  intro i s t h
  cases i with
  | xfrEot => exact ⟨[0x06], exec_xfrEot_tx h, rfl⟩
  | xfrBlkinv b =>
    refine ⟨_, ?_, rfl⟩
    rcases exec_xfrBlkinv_next h with ⟨hsum, rfl⟩ | ⟨hsum, hf⟩
    · rw [if_pos ((sum_eq_iff _ _).2 hsum), List.append_nil]
    · rw [if_neg (mt (sum_eq_iff _ _).1 hsum)]
      exact (protocolFault_tx hf :)
  | xfrCrclo b =>
    rcases exec_xfrCrclo_tx h with htx | htx | htx
    · exact ⟨[], by rw [htx, List.append_nil], .inl rfl⟩
    · exact ⟨[0x06], htx, .inr (.inl rfl)⟩
    · exact ⟨[0x15], htx, .inr (.inr rfl)⟩
  | xfrProbe =>
    refine ⟨_, ?_, rfl⟩
    rcases exec_xfrProbe_next h with ⟨hidle, u, hs, rfl⟩ | ⟨hidle, rfl⟩
    · rw [if_pos hidle]
      exact (send_tx hs :)
    · rw [if_neg hidle, List.append_nil]
      rfl
  | _ => exact ⟨[], by rw [(exec_frame h).tx rfl, List.append_nil], rfl⟩

/-- Settles O54: the frame, for every instruction but FWE_INIT, which sets `fwe_valid` or is refused. -/
theorem faultIsStickyUntilInit : Obligations.FaultIsStickyUntilInit := by
  intro i s t h
  have hf := exec_frame h
  cases hinit : isInit i with
  | false =>
    have hv := hf.fweValid hinit
    exact ⟨fun hs _ => hf.fweFault hinit hs, fun hs => hv.trans hs, fun hs ht => by rw [hv, hs] at ht; cases ht⟩
  | true =>
    obtain ⟨a, rfl⟩ : ∃ a, i = .fweInit a := by
      cases i with
      | fweInit a => exact ⟨a, rfl⟩
      | _ => cases hinit
    refine ⟨fun _ hne => absurd rfl (hne a), fun hs => ?_, fun _ _ => ⟨a, rfl⟩⟩
    rcases exec_fweInit_next h with ⟨c, rfl⟩ | ⟨-, -, -, l, -, rfl⟩
    · exact hs
    · rfl

/-- Settles O55: the five writers, one by one; the frame says that the others leave `xstatus`. -/
theorem statusHasFiveWriters : Obligations.StatusHasFiveWriters := by
  intro i s t h hne
  cases i with
  | xfrSoh => cases h; exact .inl ⟨.inl rfl, rfl⟩
  | xfrStx => cases h; exact .inl ⟨.inr rfl, rfl⟩
  | xfrEot =>
    have hc := (exec_frame h).cfg
    obtain ⟨v, r, u, hs, hf, rfl⟩ := exec_xfrEot_next h
    refine .inr (.inl ⟨rfl, ?_⟩)
    show statusAfterEot u.cfg r = _ ∨ statusAfterEot u.cfg r = _ ∧ _
    rw [← hc, statusAfterEot_eq]
    split
    · exact .inl rfl
    · next hr =>
      refine .inr ⟨rfl, ?_⟩
      cases hp : u.cfg.eotFlushFail with
      | finished => exact absurd (.inr hp) hr
      | interrupted => exact hp
  | xfrCan => cases h; exact .inr (.inr (.inl ⟨rfl, rfl⟩))
  | xfrStart =>
    rcases exec_xfrStart_next h with rfl | rfl
    · exact absurd rfl hne
    · exact .inr (.inr (.inr ⟨rfl, rfl⟩))
  | _ => exact absurd ((exec_frame h).xstatus rfl) hne

/-- Settles O52, state by state. -/
theorem byteRulesFollowTheTransitionGraph : Obligations.ByteRulesFollowTheTransitionGraph := by
  intro b s t hi h
  cases hx : s.xstate with
  | waitStart =>
    rw [hx, decodeByte, decodeWaitStart_eq_toNat] at h
    split_ifs at h with hsoh hstx heot hcan
    · cases h; simp [hsoh]
    · cases h; simp [hstx]
    · obtain ⟨v, r, u, -, -, rfl⟩ := exec_xfrEot_next h
      simp [heot]
    · cases h; simp [hcan]
    · cases h; simp [hsoh, hstx, hx]
  | waitBlockNum => rw [hx] at h; cases h; rfl
  | waitBlockInv =>
    rw [hx] at h
    rcases exec_xfrBlkinv_next h with ⟨hsum, rfl⟩ | ⟨hsum, hf⟩
    · exact (if_pos ((sum_eq_iff _ _).2 hsum)).symm
    · rw [protocolFault_ok hf]
      exact (if_neg (mt (sum_eq_iff _ _).1 hsum)).symm
  | waitData =>
    rw [hx] at h
    cases h
    simp only [hi.pcount_succ hx, hx]
  | waitCrcHigh => rw [hx] at h; cases h; rfl
  | waitCrcLow =>
    rw [hx] at h
    rcases exec_xfrCrclo_next h with ⟨d, hf⟩ | hs | ⟨-, -, ha⟩
    · rw [protocolFault_ok hf]
    · rw [send_ok hs]; rfl
    · rw [(acceptPacket_frame ha).1]; rfl

end Sys2Proof.Machine
end

section
/-! Completion: where the ports become ready no instruction and no step of a good state stops, and the ports stay so
(20_memory.md R50). -/

namespace Sys2Proof.Machine

variable {s t u : State}

/-! ### Every instruction completes -/

/-- The accept path completes: a flush makes room for any payload (R119). -/
theorem acceptPacket_completes (hi : Inv s) (hr : PortsReady s) : ∃ t, acceptPacket s = .ok t := by
  cases hv : s.fweValid with
  | false => exact ⟨_, acceptPacket_notInit hv⟩
  | true =>
    by_cases hfit : s.offset + plen s ≤ s.cfg.pageSize
    · exact ⟨_, acceptPacket_fits hi hv hr.2 hfit⟩
    · obtain ⟨r, u, hf, hfl⟩ := hi.flushProc_ready hv hr.1
      cases r with
      | ok => exact ⟨_, acceptPacket_flush_ok hi hv hr.2 (Nat.lt_of_not_le hfit) hf hfl⟩
      | fail => exact ⟨u, acceptPacket_flush_fail hv (Nat.lt_of_not_le hfit) hf⟩

theorem exec_xfrEot_completes (hi : Inv s) (hr : PortsReady s) : ∃ t, exec .xfrEot s = .next t := by
  rcases Nat.eq_zero_or_pos s.offset with ho | ho
  · exact ⟨_, exec_xfrEot_empty hr.2 ho⟩
  · have his : Inv { s with tx := s.tx ++ [ack] } := { hi with }
    obtain ⟨r, u, hf, -⟩ := his.flushProc_ready (hi.fweValid_of_offset ho) hr.1
    exact ⟨_, exec_xfrEot_flush hr.2 ho hf⟩

theorem exec_xfrBlkinv_completes (b : Byte) (htx : s.txLimit = none) : ∃ t, exec (.xfrBlkinv b) s = .next t := by
  by_cases hsum : s.blk + b = 0xFF
  · exact ⟨_, exec_xfrBlkinv_match hsum⟩
  · have hf := protocolFault_ready (s := { s with blkInv := b }) (.badComplement s.blk b) htx
    exact ⟨_, (exec_xfrBlkinv_mismatch hsum).trans (congrArg finish hf)⟩

theorem exec_xfrCrclo_completes (hi : Inv s) (hr : PortsReady s) (b : Byte) : ∃ t, exec (.xfrCrclo b) s = .next t := by
  by_cases hc : (checksummed b s).crcCalc = (checksummed b s).crcRx
  case neg =>
    exact ⟨_, (exec_xfrCrclo_badCrc hc).trans (congrArg finish (protocolFault_ready (s := checksummed b s) _ hr.2))⟩
  by_cases hb : s.blk = s.expectedBlk
  · obtain ⟨t, ha⟩ := acceptPacket_completes (hi.checksummed b) hr
    exact ⟨t, (exec_xfrCrclo_inSequence hc hb).trans (congrArg finish ha)⟩
  by_cases hd : s.blk = s.expectedBlk - 1
  · exact ⟨_, (exec_xfrCrclo_duplicate hc hd).trans (congrArg finish (send_ready (s := checksummed b s) _ hr.2))⟩
  · have hf := protocolFault_ready (s := checksummed b s) (.badSequence s.blk s.expectedBlk) hr.2
    exact ⟨_, (exec_xfrCrclo_badSequence hc hb hd).trans (congrArg finish hf)⟩

theorem exec_xfrStart_completes (s : State) : ∃ t, exec .xfrStart s = .next t := by
  by_cases hb : s.xstatus = .inProgress
  · exact ⟨_, exec_xfrStart_busy hb⟩
  · exact ⟨_, exec_xfrStart_free hb⟩

theorem exec_xfrProbe_completes (htx : s.txLimit = none) : ∃ t, exec .xfrProbe s = .next t := by
  by_cases hidle : s.xstatus = .idle
  · exact ⟨_, exec_xfrProbe_idle hidle htx⟩
  · exact ⟨_, exec_xfrProbe_notIdle hidle⟩

theorem exec_fweInit_completes (a : Word) (hr : s.readLimit = none) : ∃ t, exec (.fweInit a) s = .next t := by
  by_cases hb : s.xstatus = .inProgress
  · exact ⟨_, if_pos (busy_eq_true_iff.2 hb)⟩
  have hfree := mt busy_eq_true_iff.1 hb
  by_cases ha : a.toNat % s.cfg.pageSize = 0
  case neg => exact ⟨_, (if_neg hfree).trans (if_pos ha)⟩
  by_cases hin : InStorage s.cfg a.toNat s.cfg.pageSize
  · exact ⟨_, exec_fweInit_ready hr hb ha hin⟩
  · exact ⟨_, (if_neg hfree).trans ((if_neg (not_not_intro ha)).trans (if_pos hin))⟩

theorem exec_fweStage_completes {l : Half} {d : List Byte} (hl : d.length = l.toNat) :
    ∃ t, exec (.fweStage l d) s = .next t := by
  by_cases hb : s.xstatus = .inProgress
  · exact ⟨_, if_pos (busy_eq_true_iff.2 hb)⟩
  have hfree := mt busy_eq_true_iff.1 hb
  cases hv : s.fweValid with
  | false => exact ⟨_, (if_neg hfree).trans (if_pos hv)⟩
  | true =>
    by_cases hfit : s.offset + l.toNat ≤ s.cfg.pageSize
    · exact ⟨_, exec_fweStage_ready hl hb hv hfit⟩
    · exact ⟨_, (if_neg hfree).trans ((if_neg (by simp [hv])).trans (if_pos (Nat.lt_of_not_le hfit)))⟩

theorem exec_fweFlush_completes (hi : Inv s) (hr : StorageReady s) : ∃ t, exec .fweFlush s = .next t := by
  by_cases hb : s.xstatus = .inProgress
  · exact ⟨_, if_pos (busy_eq_true_iff.2 hb)⟩
  cases hv : s.fweValid with
  | false => exact ⟨_, (if_neg (mt busy_eq_true_iff.1 hb)).trans (if_pos hv)⟩
  | true =>
    obtain ⟨r, u, hf, -⟩ := hi.flushProc_ready hv hr
    exact ⟨_, exec_fweFlush_of_flushProc hb hv hf⟩

/-- Settles O49, instruction by instruction: each branch has its result where the ports become ready. -/
theorem everyInstructionCompletes : Obligations.EveryInstructionCompletes := by
  intro i s hw hi hr
  cases i with
  | xfrSoh | xfrStx | xfrCan | xfrNoise | xfrBlknum | xfrData | xfrCrchi => exact ⟨_, rfl⟩
  | xfrEot => exact exec_xfrEot_completes hi hr
  | xfrBlkinv b => exact exec_xfrBlkinv_completes b hr.2
  | xfrCrclo b => exact exec_xfrCrclo_completes hi hr b
  | xfrStart => exact exec_xfrStart_completes s
  | xfrProbe => exact exec_xfrProbe_completes hr.2
  | rdreg n => exact ⟨_, exec_rdreg n s⟩
  | fweInit a => exact exec_fweInit_completes a hr.1.2
  | fweStage l d => exact exec_fweStage_completes (by simpa [Instr.wellFormed] using hw)
  | fweFlush => exact exec_fweFlush_completes hi hr.1
  | verVerify a => exact ⟨_, exec_verVerify_ready hr.1.2⟩

/-! ### The ports stay ready -/

theorem PortsReady.send {b : Byte} (hr : PortsReady s) (h : send b s = .ok t) : PortsReady t := by
  rw [send_ready b hr.2] at h
  cases h
  exact hr

theorem PortsReady.protocolFault {d : Diag} (hr : PortsReady s) (h : protocolFault d s = .ok t) : PortsReady t := by
  rw [protocolFault_ready d hr.2] at h
  cases h
  exact hr

/-- A flush uses up draws of the script and no reads that are counted (R49, R50). -/
theorem PortsReady.flushProc {r : PortResult} (hr : PortsReady s) (hf : FlushReady s) (h : flushProc s = .ok (r, t)) :
    PortsReady t := by
  obtain ⟨v, hp, -, ⟨-, c, -, -, rfl⟩ | ⟨-, -, -, hk⟩⟩ := flushProc_spec hf h
  · exact ⟨hp.ready hr.1, hp.txLimit.trans hr.2⟩
  · obtain ⟨hframe, ⟨hsc, hrl⟩, -⟩ := commitFlush_spec hk
    have hv := hp.ready hr.1
    have htx : t.txLimit = v.txLimit := by rw [hframe]
    exact ⟨⟨fun e he => hv.1 e (hsc e he), hrl hv.2⟩, htx.trans (hp.txLimit.trans hr.2)⟩

theorem PortsReady.acceptPacket (hr : PortsReady s) (hi : Inv s) (h : acceptPacket s = .ok t) : PortsReady t := by
  rcases acceptPacket_ok h with ⟨-, rfl⟩ | ⟨-, -, hf⟩ | ⟨-, u, w, hu, hst, hs⟩
  · exact hr
  · exact hr.flushProc hi.flushReady hf
  · have hru : PortsReady u := by
      rcases hu with ⟨-, hf⟩ | ⟨-, rfl⟩
      · exact hr.flushProc hi.flushReady hf
      · exact hr
    have hw := (stage_ok hst).2.2
    exact PortsReady.send (s := { w with expectedBlk := w.expectedBlk + 1 }) (by rw [hw]; exact hru) hs

theorem exec_keeps_portsReady {i : Instr} (hi : Inv s) (hr : PortsReady s) (h : exec i s = .next t) : PortsReady t := by
  cases i with
  | xfrEot =>
    obtain ⟨v, r, u, hs, hf, rfl⟩ := exec_xfrEot_next h
    have hv := hr.send hs
    rcases hf with ⟨-, hf⟩ | ⟨-, -, rfl⟩
    · exact (hv.flushProc (hi.send hs).flushReady hf :)
    · exact hv
  | xfrBlkinv b =>
    rcases exec_xfrBlkinv_next h with ⟨-, rfl⟩ | ⟨-, hf⟩
    · exact hr
    · exact PortsReady.protocolFault (s := { s with blkInv := b }) hr hf
  | xfrCrclo b =>
    have hc : PortsReady (checksummed b s) := hr
    rcases exec_xfrCrclo_next h with ⟨d, hf⟩ | hs | ⟨-, -, ha⟩
    · exact hc.protocolFault hf
    · exact hc.send hs
    · exact hc.acceptPacket (hi.checksummed b) ha
  | xfrProbe =>
    rcases exec_xfrProbe_next h with ⟨-, u, hs, rfl⟩ | ⟨-, rfl⟩
    · exact (hr.send hs :)
    · exact hr
  | fweInit a =>
    rcases exec_fweInit_next h with ⟨c, rfl⟩ | ⟨-, -, -, l, hl, rfl⟩
    · exact hr
    · exact ⟨⟨hr.1.1, hl hr.1.2⟩, hr.2⟩
  | fweFlush =>
    rcases exec_fweFlush_next h with ⟨c, rfl⟩ | ⟨-, -, r, u, c, v, hf, rfl⟩
    · exact hr
    · exact (hr.flushProc hi.flushReady hf :)
  | verVerify a =>
    obtain ⟨v, l, hl, rfl⟩ := exec_verVerify_next h
    exact ⟨⟨hr.1.1, hl hr.1.2⟩, hr.2⟩
  | _ =>
    obtain ⟨hsc, hrl, htx⟩ := (exec_frame h).ports rfl rfl rfl
    exact ⟨⟨by rw [hsc]; exact hr.1.1, hrl.trans hr.1.2⟩, htx.trans hr.2⟩

/-- Settles O15: what is fetched from a good state completes, and every instruction and a reset leave the ports ready. -/
theorem stepNeverFaults : Obligations.StepNeverFaults := by
  intro s hi hr
  have consumed : ∀ {u}, Consumed s u → Inv u ∧ PortsReady u := fun hu =>
    ⟨hi.consumed hu, by rw [hu]; exact hr⟩
  refine ⟨fun f h => ?_, fun t h => ?_⟩
  · have hfs := fetch_spec s
    rw [step_valid hi.cfg_valid] at h
    cases hf : fetch s with
    | run i u =>
      rw [hf] at h hfs
      obtain ⟨hu, hd⟩ := hfs
      obtain ⟨hiu, hru⟩ := consumed hu
      obtain ⟨t, ht⟩ := everyInstructionCompletes i u hd.wellFormed hiu hru
      cases ht.symm.trans h
    | reserved => rw [hf] at hfs; exact hfs
    | idle | reset | illegal | malformed => rw [hf] at h; cases h
  · obtain ⟨-, u, hu, hrun⟩ := step_next h
    obtain ⟨hiu, hru⟩ := consumed hu
    rcases hrun with ⟨i, -, hex⟩ | rfl | rfl
    · exact exec_keeps_portsReady hiu hru hex
    · exact hru
    · exact hru

end Sys2Proof.Machine
end

section
/-! The mirror invariant (10_state.md R18, 42_flash_write_engine.md R94): every step keeps it. -/

namespace Sys2Proof.Machine

variable {s t u : State}

/-- A state with the same handle, fault flag, configuration and storage has the same mirror invariant. -/
theorem MirrorTail.of_kept (hm : MirrorTail s) (hcfg : t.cfg = s.cfg) (hv : t.fweValid = s.fweValid)
    (hf : s.fweFault = true → t.fweFault = true)
    (hh : t.curAddr = s.curAddr ∧ t.offset = s.offset ∧ t.mirror = s.mirror) (hst : t.storage = s.storage) :
    MirrorTail t := by
  obtain ⟨ha, ho, hmir⟩ := hh
  intro hvt hft hp hin
  rw [hcfg] at hp hin ⊢
  rw [ha] at hin ⊢
  rw [ho, hmir, storageBytes_congr hcfg hst]
  exact hm (hv ▸ hvt) (by
    by_contra hne
    rw [hf (by simpa using hne)] at hft
    cases hft) hp hin

/-- After a storage fault nothing is asked of the mirror. -/
theorem MirrorTail.of_fault (h : t.fweFault = true) : MirrorTail t := fun _ hf => by rw [h] at hf; cases hf

/-- Staging overwrites mirror bytes below the new offset only (R95). -/
theorem MirrorTail.stage {d : List Byte} (hm : MirrorTail s) (hi : Inv s) (h : stage d s = .ok t) : MirrorTail t := by
  obtain ⟨hv, hle, rfl⟩ := stage_ok h
  intro hvt hft hp hin
  have hold := congrArg (List.drop d.length) (hm hvt hft hp hin)
  rw [List.drop_drop, List.drop_drop] at hold
  have hlen : (s.mirror.take s.offset ++ d).length = s.offset + d.length := by
    rw [List.length_append, List.length_take, hi.mirror_length, Nat.min_eq_left hi.offset_le]
  show List.drop (s.offset + d.length) (s.mirror.take s.offset ++ d ++ s.mirror.drop (s.offset + d.length)) = _
  rw [List.drop_left' hlen]
  exact hold

/-- A flush that succeeds reloads the mirror from the new page, and one that fails sets the fault (R103, R104). -/
theorem MirrorTail.flushed {r : PortResult} (h : Flushed s t r) : MirrorTail t := by
  cases r with
  | ok =>
    obtain ⟨-, -, -, -, -, hreload, -⟩ := h.success rfl
    intro _ _ hp hin
    rw [h.kept.1] at hp hin ⊢
    rw [hreload hp hin]
  | fail =>
    obtain ⟨-, -, -, hfault, -⟩ := h.failure rfl
    exact .of_fault hfault

theorem MirrorTail.acceptPacket (hm : MirrorTail s) (hi : Inv s) (h : acceptPacket s = .ok t) : MirrorTail t := by
  rcases acceptPacket_ok h with ⟨-, rfl⟩ | ⟨-, -, hf⟩ | ⟨-, u, w, hu, hst, hs⟩
  · exact .of_fault rfl
  · exact .flushed (flushProc_flushed hi.flushReady hi.storage_wf hf)
  · have hmu : MirrorTail u ∧ Inv u := by
      rcases hu with ⟨-, hf⟩ | ⟨-, rfl⟩
      · exact ⟨.flushed (flushProc_flushed hi.flushReady hi.storage_wf hf), hi.flushProc hf⟩
      · exact ⟨hm, hi⟩
    rw [send_ok hs]
    exact (hmu.1.stage hmu.2 hst :)

theorem exec_keeps_mirrorTail {i : Instr} (hi : Inv s) (hm : MirrorTail s) (h : exec i s = .next t) : MirrorTail t := by
  cases i with
  | xfrEot =>
    obtain ⟨v, r, u, hs, hf, rfl⟩ := exec_xfrEot_next h
    rcases hf with ⟨-, hf⟩ | ⟨-, -, rfl⟩
    · have hiv := hi.send hs
      exact (MirrorTail.flushed (flushProc_flushed hiv.flushReady hiv.storage_wf hf) :)
    · rw [send_ok hs]
      exact hm
  | xfrCrclo b =>
    have hmc : MirrorTail (checksummed b s) := hm
    rcases exec_xfrCrclo_next h with ⟨d, hf⟩ | hs | ⟨-, -, ha⟩
    · rw [protocolFault_ok hf]; exact hmc
    · rw [send_ok hs]; exact hmc
    · exact hmc.acceptPacket (hi.checksummed b) ha
  | fweInit a =>
    rcases exec_fweInit_next h with ⟨c, rfl⟩ | ⟨-, -, -, l, -, rfl⟩
    · exact hm
    · exact fun _ _ _ _ => rfl
  | fweStage l d =>
    rcases exec_fweStage_next h with ⟨c, rfl⟩ | ⟨-, hv, hle, rfl⟩
    · exact hm
    · exact (hm.stage hi (stage_ready hv hle) :)
  | fweFlush =>
    rcases exec_fweFlush_next h with ⟨c, rfl⟩ | ⟨-, -, r, u, c, v, hf, rfl⟩
    · exact hm
    · exact (MirrorTail.flushed (flushProc_flushed hi.flushReady hi.storage_wf hf) :)
  | _ =>
    have hf := exec_frame h
    exact hm.of_kept hf.cfg (hf.fweValid rfl) (hf.fweFault rfl) (hf.handle rfl rfl rfl) (hf.storage rfl).1

/-- Settles O16: every instruction keeps it, and after a reset FWE is not initialised. -/
theorem stepKeepsTheMirrorTail : Obligations.StepKeepsTheMirrorTail := by
  intro s t hi hm h
  obtain ⟨-, u, hu, hrun⟩ := step_next h
  have hmu : MirrorTail u := by rw [hu]; exact hm
  rcases hrun with ⟨i, -, hex⟩ | rfl | rfl
  · exact exec_keeps_mirrorTail (hi.consumed hu) hmu hex
  · exact nofun
  · exact hmu

end Sys2Proof.Machine
end

section
/-! A well-formed packet on the wire (30_encoding.md R68, R80), received byte by byte (43_transfer_protocol.md R123). -/

namespace Sys2Proof.Machine

variable {s t u : State}

/-! ### Runs -/

theorem run_succ {M : Host.Core} {s t : M.State} {k : Nat} (h : M.step s = .next t) : M.run (k + 1) s = M.run k t := by
  simp only [Host.Core.run, h]

/-- A run of `m` steps that answers a state goes on from it. -/
theorem run_add {M : Host.Core} {t : M.State} (k : Nat) : ∀ {m : Nat} {s : M.State},
    M.run m s = .next t → M.run (m + k) s = M.run k t
  | 0, s, h => by cases h; rw [Nat.zero_add]
  | m + 1, s, h => by
    cases hs : M.step s with
    | next v =>
      rw [run_succ hs] at h
      rw [Nat.add_right_comm, run_succ hs]
      exact run_add k h
    | fault f => simp only [Host.Core.run, hs] at h; cases h
    | refused r => simp only [Host.Core.run, hs] at h; cases h

/-- Only bytes wait, and the schedule says nothing: the bytes go in their order. -/
structure Receiving (s : State) (bs : List Byte) : Prop where
  inv : Inv s
  host : s.hostPort = []
  sched : s.sched = []
  rx : s.rxPort = bs

/-- A byte that is received: its rule runs, and the bytes after it wait. -/
theorem Receiving.step {b : Byte} {bs : List Byte} {i : Instr} (h : Receiving s (b :: bs))
    (hi : decodeByte s.xstate b = i) (he : exec i { s with rxPort := bs } = .next t)
    (hk : t.hostPort = s.hostPort ∧ t.sched = s.sched ∧ t.rxPort = bs) : step s = .next t ∧ Receiving t bs := by
  have hs : Machine.step s = .next t := by
    subst hi
    rw [← he]
    exact step_of_fetch_run h.inv.cfg_valid
      ((fetch_unscheduled h.sched (.inr h.host)).trans (fetchFavoured_byte h.rx (.inl rfl)))
  obtain ⟨hh, hq, hr⟩ := hk
  exact ⟨hs, stepKeepsTheInvariant s t h.inv hs, hh.trans h.host, hq.trans h.sched, hr⟩

/-! ### The payload -/

/-- The bytes that complete the payload are appended to it, one step each, and the checksum is then awaited (R117). -/
theorem run_payload : ∀ (ds : List Byte) {s : State} {rest : List Byte}, Receiving s (ds ++ rest) →
    s.xstate = .waitData → s.pcount.toNat + ds.length = plen s →
    ∃ t, Host.Core.run Sys2Proof.core ds.length s = .next t ∧ Receiving t rest ∧
      t = { s with pbuf := t.pbuf, pcount := t.pcount, xstate := .waitCrcHigh, rxPort := rest } ∧
      t.pbuf.take (plen s) = s.pbuf.take s.pcount.toNat ++ ds
  | [], s, rest, h, hx, hn => by
    have := h.inv.wait_data hx
    rw [List.length_nil, Nat.add_zero] at hn
    omega
  | d :: ds, s, rest, h, hx, hn => by
    have his : Inv { s with rxPort := ds ++ rest } := { h.inv with }
    obtain ⟨u, he, hframe, hcount, htake, -, hxu⟩ := dataAppendsToThePayload d _ his hx
    have hkept : u.hostPort = s.hostPort ∧ u.sched = s.sched ∧ u.rxPort = ds ++ rest := by
      rw [hframe]; exact ⟨rfl, rfl, rfl⟩
    have hplen : plen u = plen s := by rw [hframe]; rfl
    obtain ⟨hs, hu⟩ := h.step (by rw [hx]; rfl) he hkept
    rw [List.length_cons] at hn
    cases ds with
    | nil =>
      replace hxu : u.xstate = .waitCrcHigh := hxu.trans (if_pos hn)
      refine ⟨u, run_succ (M := Sys2Proof.core) hs, hu, ?_, ?_⟩
      · rw [hxu] at hframe; exact hframe
      · rw [← hn, List.length_nil, ← htake, hcount]
    | cons e es =>
      rw [List.length_cons] at hn
      replace hxu : u.xstate = .waitData := hxu.trans (if_neg (by show ¬ s.pcount.toNat + 1 = plen s; omega))
      obtain ⟨t, hrun, ht, hft, htk⟩ := run_payload (e :: es) hu hxu (by
        rw [hcount, hplen]
        simp only [List.length_cons]
        omega)
      refine ⟨t, (run_succ (M := Sys2Proof.core) hs).trans hrun, ht, ?_, ?_⟩
      · rw [hframe] at hft; exact hft
      · rw [hplen, htake] at htk
        simpa using htk

/-! ### The header and the checksum -/

/-- The three header bytes select the length, store the block number and pass the complement's check (R110, R111, R115,
R116). -/
theorem run_header {sel : Bool} {n : Byte} {bs : List Byte}
    (h : Receiving s ([if sel then 0x02 else 0x01, n, 0xFF - n] ++ bs)) (hx : s.xstate = .waitStart) :
    ∃ t, Host.Core.run Sys2Proof.core 3 s = .next t ∧ Receiving t bs ∧
      t = { s with
        plenSel := sel, xstatus := .inProgress, blk := n, blkInv := 0xFF - n, pcount := 0, xstate := .waitData
        rxPort := bs } := by
  have hsum : n + (0xFF - n) = 0xFF := by bv_omega
  obtain ⟨h1, r1⟩ := h.step (i := if sel then .xfrStx else .xfrSoh)
    (t := { startPacket sel s with rxPort := n :: (0xFF - n) :: bs })
    (by rw [hx]; cases sel <;> rfl) (by cases sel <;> rfl) ⟨rfl, rfl, rfl⟩
  obtain ⟨h2, r2⟩ := r1.step rfl rfl ⟨rfl, rfl, rfl⟩
  obtain ⟨h3, r3⟩ := r2.step rfl (exec_xfrBlkinv_match hsum) ⟨rfl, rfl, rfl⟩
  exact ⟨_, (run_succ (M := Sys2Proof.core) h1).trans ((run_succ h2).trans (run_succ h3)), r3, rfl⟩

/-- The two halves of a checksum make it again. -/
theorem halves_eq (c r : Half) :
    BitVec.ofNat 16 ((c.extractLsb' 8 8 ++ r.extractLsb' 0 8 : BitVec 16).toNat / 256 * 256 +
      (c.extractLsb' 0 8).toNat) = c := by
  have := c.isLt
  apply BitVec.eq_of_toNat_eq
  rw [setHigh_toNat, BitVec.toNat_ofNat, BitVec.extractLsb'_toNat, BitVec.extractLsb'_toNat,
    Nat.shiftRight_eq_div_pow, Nat.shiftRight_eq_div_pow]
  omega

/-- The checksum's two bytes end a packet in sequence with room: it is staged and acknowledged (R118, R119). -/
theorem run_checksum {c : Half} {rest : List Byte} (hc : crc16 (payload s) = c)
    (h : Receiving s (c.extractLsb' 8 8 :: c.extractLsb' 0 8 :: rest)) (hx : s.xstate = .waitCrcHigh)
    (hb : s.blk = s.expectedBlk) (hv : s.fweValid = true) (htx : s.txLimit = none)
    (hfit : s.offset + plen s ≤ s.cfg.pageSize) :
    Host.Core.run Sys2Proof.core 2 s = .next (packetAccepted { s with
      crcRx := c, crcCalc := c, xstate := .waitStart, rxPort := rest }) := by
  obtain ⟨h1, r1⟩ := h.step (i := .xfrCrchi (c.extractLsb' 8 8)) (t := { s with
    crcRx := (c.extractLsb' 8 8 ++ s.crcRx.extractLsb' 0 8 : BitVec 16), xstate := .waitCrcLow
    rxPort := c.extractLsb' 0 8 :: rest }) (by rw [hx]; rfl) rfl ⟨rfl, rfl, rfl⟩
  have hchecked : checksummed (c.extractLsb' 0 8) { s with
      crcRx := (c.extractLsb' 8 8 ++ s.crcRx.extractLsb' 0 8 : BitVec 16), xstate := .waitCrcLow, rxPort := rest } =
      { s with crcRx := c, crcCalc := c, xstate := .waitStart, rxPort := rest } := by
    have hcalc : crc16 (s.pbuf.take (plen s)) = c := hc
    simp only [checksummed, halves_eq]
    exact congrArg (fun x => { s with crcRx := c, crcCalc := x, xstate := .waitStart, rxPort := rest }) hcalc
  have hi : Inv { s with crcRx := c, crcCalc := c, xstate := .waitStart, rxPort := rest } := by
    rw [← hchecked]
    exact Inv.checksummed (s := { s with
      crcRx := (c.extractLsb' 8 8 ++ s.crcRx.extractLsb' 0 8 : BitVec 16), xstate := .waitCrcLow
      rxPort := rest }) { r1.inv with } (c.extractLsb' 0 8)
  have he := exec_xfrCrclo_inSequence (b := c.extractLsb' 0 8) (s := { s with
    crcRx := (c.extractLsb' 8 8 ++ s.crcRx.extractLsb' 0 8 : BitVec 16), xstate := .waitCrcLow, rxPort := rest })
    (by rw [hchecked]) hb
  rw [hchecked, acceptPacket_fits hi hv htx hfit] at he
  obtain ⟨h2, -⟩ := r1.step (i := .xfrCrclo (c.extractLsb' 0 8)) rfl he ⟨rfl, rfl, rfl⟩
  exact (run_succ (M := Sys2Proof.core) h1).trans (run_succ (M := Sys2Proof.core) h2)

/-- Settles O56: header, payload and checksum, one after another. -/
theorem packetIsReceivedInItsBytes : Obligations.PacketIsReceivedInItsBytes := by
  intro s sel p rest n hi htx hx hv hlen hfit hh hq hrx
  have hwire : s.rxPort = [if sel then 0x02 else 0x01, s.expectedBlk, 0xFF - s.expectedBlk] ++
      (p ++ ((crc16 p).extractLsb' 8 8 :: (crc16 p).extractLsb' 0 8 :: rest)) := by
    rw [hrx, rxpkt, packetBytes]
    simp
  obtain ⟨t, hrun1, ht, hft⟩ := run_header ⟨hi, hh, hq, hwire⟩ hx
  have hplen : plen t = n := by rw [hft]; rfl
  obtain ⟨u, hrun2, hu, hfu, htake⟩ := run_payload p ht (by rw [hft]) (by
    rw [hplen, ← hlen, hft]
    exact Nat.zero_add _)
  have hpay : payload u = p := by
    have hz : t.pcount.toNat = 0 := by rw [hft]; rfl
    have hpu : plen u = plen t := by rw [hfu]; rfl
    show u.pbuf.take (plen u) = p
    rw [hpu, htake, hz]
    rfl
  rw [hft] at hfu
  have hplenu : plen u = n := by rw [hfu]; rfl
  have hrun3 := run_checksum (congrArg crc16 hpay) hu (by rw [hfu]) (by rw [hfu]) (by rw [hfu]; exact hv)
    (by rw [hfu]; exact htx) (by rw [hplenu, hfu]; exact hfit)
  have hrun := (run_add (p.length + 2) hrun1).trans ((run_add 2 hrun2).trans hrun3)
  rw [hlen, show 3 + (n + 2) = n + 5 by omega] at hrun
  have hstatus : u.xstatus = .inProgress := by rw [hfu]
  have htx : u.tx = s.tx := by rw [hfu]
  have hexp : u.expectedBlk = s.expectedBlk := by rw [hfu]
  have hoff : u.offset = s.offset := by rw [hfu]
  have hmir : u.mirror = s.mirror := by rw [hfu]
  have hstorage : u.storage = s.storage := by rw [hfu]
  have haddr : u.curAddr = s.curAddr := by rw [hfu]
  have hdiag : u.diag = s.diag := by rw [hfu]
  refine ⟨_, hrun, rfl, hstatus, rfl, congrArg (· ++ [ack]) htx, congrArg (· + 1) hexp,
    congrArg₂ (· + ·) hoff hplenu, ?_, hstorage, haddr, hdiag⟩
  rw [← hpay, ← hmir, ← hoff, ← hplenu]
  rfl

end Sys2Proof.Machine
end

section
/-! The mirror and the payload behind a veil: what the storage port does, and FlushProc up to the mirror it writes, does not
depend on them (20_memory.md R45 to R49, 42_flash_write_engine.md R97). -/

namespace Sys2Proof.Machine

variable {f : List Byte → List Byte} {p : List Byte} {s t u : State}

/-! ### The veil -/

/-- The state with another payload buffer, and with what `f` makes of the mirror: `id` keeps it, a constant hides it. -/
def veil (f : List Byte → List Byte) (p : List Byte) (s : State) : State := { s with mirror := f s.mirror, pbuf := p }

/-- The veil over what an operation answers. -/
abbrev veiled {α : Type} (f : List Byte → List Byte) (p : List Byte) (x : Except Fault (α × State)) :
    Except Fault (α × State) := x.map (Prod.map id (veil f p))

/-- Operations that commute with a map of what they answer do so one after the other. -/
theorem map_bind_of_ok {α β : Type} {g : α → α} {g' : β → β} {x y : Except Fault α} {k l : α → Except Fault β}
    (hx : y = x.map g) (hk : ∀ a, x = .ok a → l (g a) = (k a).map g') : y >>= l = (x >>= k).map g' := by
  subst hx
  cases x with
  | error e => rfl
  | ok a => exact hk a rfl

theorem map_bind {α β : Type} {g : α → α} {g' : β → β} {x y : Except Fault α} {k l : α → Except Fault β}
    (hx : y = x.map g) (hk : ∀ a, l (g a) = (k a).map g') : y >>= l = (x >>= k).map g' :=
  map_bind_of_ok hx fun a _ => hk a

/-- A check that the map does not touch. -/
theorem map_ite {α : Type} {g : α → α} (c : Prop) [Decidable c] {x x' y y' : Except Fault α}
    (hx : x' = x.map g) (hy : y' = y.map g) : (if c then x' else y') = (if c then x else y).map g := by
  by_cases hc : c
  · rw [if_pos hc, if_pos hc, hx]
  · rw [if_neg hc, if_neg hc, hy]

/-- An outcome that a draw decides. -/
theorem map_result {α : Type} {g : α → α} (r : PortResult) {x x' y y' : Except Fault α}
    (hx : x' = x.map g) (hy : y' = y.map g) :
    (match r with | .ok => x' | .fail => y') = (match r with | .ok => x | .fail => y).map g := by
  cases r with
  | ok => exact hx
  | fail => exact hy

/-! ### The storage port (R45 to R49) -/

theorem draw_veil (s : State) : draw (veil f p s) = veiled f p (draw s) := by
  have hscript : (veil f p s).script = s.script := rfl
  have htail : (veil f p s).tail = s.tail := rfl
  unfold draw
  rw [hscript, htail]
  rcases s.script with _ | ⟨_ | _, rest⟩
  · cases s.tail <;> rfl
  · rfl
  · rfl

theorem takeRead_veil (s : State) : takeRead (veil f p s) = (takeRead s).map (veil f p) := by
  have hread : (veil f p s).readLimit = s.readLimit := rfl
  unfold takeRead
  rw [hread]
  rcases s.readLimit with _ | _ | n <;> rfl

theorem portUnlock_veil (s : State) : portUnlock (veil f p s) = veiled f p (portUnlock s) :=
  map_bind (draw_veil s) fun ⟨d, _⟩ => map_result d.result rfl rfl

theorem portLock_veil (s : State) : portLock (veil f p s) = veiled f p (portLock s) :=
  map_bind (draw_veil s) fun _ => rfl

theorem portErase_veil (a : Nat) (s : State) : portErase a (veil f p s) = veiled f p (portErase a s) :=
  map_ite (s.locked = true ∨ a % s.cfg.pageSize ≠ 0 ∨ ¬ Erasable s.cfg a) rfl
    (map_bind (draw_veil s) fun ⟨d, _⟩ => map_result d.result rfl rfl)

theorem portProgram_veil (a : Nat) (data : List Byte) (s : State) :
    portProgram a data (veil f p s) = veiled f p (portProgram a data s) :=
  map_ite (s.locked = true ∨ a % s.cfg.progUnit ≠ 0 ∨ ¬ InStorage s.cfg a s.cfg.progUnit) rfl
    (map_bind (draw_veil s) fun ⟨d, _⟩ => map_result d.result rfl rfl)

theorem memRead_veil (a n : Nat) (s : State) : memRead a n (veil f p s) = veiled f p (memRead a n s) :=
  map_bind (takeRead_veil s) fun u =>
    map_ite (InStorage u.cfg a n) rfl (map_bind (draw_veil u) fun _ => rfl)

theorem programUnits_veil : ∀ (n a : Nat) (data : List Byte) (s : State),
    programUnits n a data (veil f p s) = veiled f p (programUnits n a data s)
  | 0, _, _, _ => rfl
  | n + 1, a, data, s => by
    refine map_bind (portProgram_veil a (data.take s.cfg.progUnit) s) fun ⟨r, u⟩ => ?_
    cases r with
    | fail => rfl
    | ok => exact programUnits_veil n _ _ u

theorem verifies_veil (a : Nat) (s : State) : verifies a (veil f p s) = veiled f p (verifies a s) :=
  map_ite (InStorage s.cfg a s.cfg.header.hdrSize)
    (map_bind (memRead_veil a _ s) fun ⟨h, u⟩ =>
      map_ite (headerAccepted u.cfg a h) (map_bind (memRead_veil _ _ u) fun _ => rfl) rfl) rfl

/-- The mirror that is loaded is no longer the veil's. -/
theorem loadMirror_veil (s : State) : loadMirror (veil f p s) = (loadMirror s).map (veil id p) :=
  map_bind (memRead_veil _ _ s) fun _ => rfl

/-! ### FlushProc, which reads the mirror but no payload (R97) -/

theorem verifyPage_veil (s : State) : verifyPage (veil id p s) = veiled id p (verifyPage s) :=
  map_bind (memRead_veil _ _ s) fun _ => rfl

theorem flushPage_veil (s : State) : flushPage (veil id p s) = veiled id p (flushPage s) := by
  refine map_bind (portUnlock_veil s) fun ⟨r, u⟩ => ?_
  cases r with
  | fail => rfl
  | ok =>
  refine map_bind (portErase_veil _ u) fun ⟨r, v⟩ => ?_
  cases r with
  | fail => rfl
  | ok =>
  refine map_bind (programUnits_veil _ _ _ v) fun ⟨r, w⟩ => ?_
  cases r with
  | fail => rfl
  | ok => exact verifyPage_veil w

theorem commitFlush_veil (s : State) : commitFlush (veil id p s) = (commitFlush s).map (veil id p) := by
  have hload := loadMirror_veil (f := id) (p := p) { s with offset := 0, curAddr := nextPage s }
  unfold commitFlush
  show (match s.cfg.mirrorAfterFlush with | .reload => _ | .keep => _) =
    Except.map _ (match s.cfg.mirrorAfterFlush with | .reload => _ | .keep => _)
  cases s.cfg.mirrorAfterFlush with
  | reload => exact hload
  | keep => rfl

theorem flushProc_veil (s : State) : flushProc (veil id p s) = veiled id p (flushProc s) := by
  refine map_ite (s.fweValid = true) (map_bind (flushPage_veil s) fun ⟨c, u⟩ =>
    map_bind (portLock_veil u) fun ⟨l, v⟩ => ?_) rfl
  dsimp only [Prod.map_apply, id_eq]
  cases lockCause c l with
  | none => exact map_bind (commitFlush_veil v) fun _ => rfl
  | _ => rfl

end Sys2Proof.Machine
end

section
/-! No step reads a byte that holds no value (10_state.md R37): the mirror before the first FWE_INIT, and the payload that
the current packet has not written. -/

namespace Sys2Proof.Machine

variable {f : List Byte → List Byte} {p : List Byte} {s t u : State}

/-! ### A veil over bytes that hold no value -/

/-- The veil of `f` and `p` hides from `s` only bytes that hold no value. -/
structure Hides (f : List Byte → List Byte) (p : List Byte) (s : State) : Prop where
  mirror : s.fweValid = true → f = id
  payload : p.take (payloadRead s) = s.pbuf.take (payloadRead s)

theorem Hides.sameValues (h : Hides f p s) : SameValues s (veil f p s) :=
  ⟨rfl, fun hv => by rw [h.mirror hv]; rfl, h.payload⟩

theorem SameValues.exists_veil (h : SameValues s t) : ∃ f, Hides f t.pbuf s ∧ t = veil f t.pbuf s := by
  cases hv : s.fweValid with
  | false => exact ⟨fun _ => t.mirror, ⟨fun ht => absurd (hv.symm.trans ht) (by decide), h.payload⟩, h.rest⟩
  | true => exact ⟨id, ⟨fun _ => rfl, h.payload⟩, by rw [veil, id, ← h.mirror hv]; exact h.rest⟩

/-- Between packets the payload holds no value. -/
theorem payloadRead_waitStart (h : s.xstate = .waitStart) : payloadRead s = 0 := by rw [payloadRead, h]

/-- A veil over the fields that `s` and `u` share. -/
theorem Hides.of_kept (h : Hides f p s) (hv : u.fweValid = s.fweValid) (hx : u.xstate = s.xstate)
    (hc : u.pcount = s.pcount) (hb : u.pbuf = s.pbuf) : Hides f p u := by
  have hr : payloadRead u = payloadRead s := by rw [payloadRead, payloadRead, hx, hc]
  exact ⟨fun hu => h.mirror (hv ▸ hu), by rw [hr, hb]; exact h.payload⟩

/-- An instruction but FWE_INIT keeps what the veil hides, where the payload holds no more than before. -/
theorem Hides.of_exec {i : Instr} (h : Hides f p s) (he : exec i s = .next u) (hi : isInit i = false)
    (hp : p.take (payloadRead u) = u.pbuf.take (payloadRead u)) : Hides f p u :=
  ⟨fun hv => h.mirror ((exec_frame he).fweValid hi ▸ hv), hp⟩

theorem Hides.of_exec_waitStart {i : Instr} (h : Hides f p s) (he : exec i s = .next u) (hi : isInit i = false)
    (hx : u.xstate = .waitStart) : Hides f p u :=
  h.of_exec he hi (by rw [payloadRead_waitStart hx, List.take_zero, List.take_zero])

/-- The end of an operation that commutes with the veil. -/
theorem sameOutcome_finish {x y : Except Fault State} (hy : y = x.map (veil f p))
    (h : ∀ u, finish x = .next u → Hides f p u) : SameOutcome (finish x) (finish y) := by
  subst hy
  cases x with
  | error e => exact rfl
  | ok u => exact (h u rfl).sameValues

/-! ### The shared operations -/

theorem send_veil (b : Byte) (s : State) : send b (veil f p s) = (send b s).map (veil f p) := by
  have hlimit : (veil f p s).txLimit = s.txLimit := rfl
  unfold send
  rw [hlimit]
  rcases s.txLimit with _ | _ | n <;> rfl

theorem protocolFault_veil (d : Diag) (s : State) :
    protocolFault d (veil f p s) = (protocolFault d s).map (veil f p) :=
  map_bind (send_veil nak s) fun _ => rfl

theorem stage_veil (d : List Byte) (s : State) : stage d (veil id p s) = (stage d s).map (veil id p) :=
  map_ite (s.fweValid = true ∧ s.offset + d.length ≤ s.cfg.pageSize) rfl rfl

/-- Where FWE is not initialised nothing is staged, so an EOT runs no flush (R18, R112). -/
theorem eotFlush_veil (hm : s.fweValid = true → f = id) (hv : s.fweValid = false → s.offset = 0) :
    eotFlush (veil f p s) = veiled f p (eotFlush s) := by
  cases h : s.fweValid with
  | true => rw [hm h]; exact map_ite (0 < s.offset) (flushProc_veil s) rfl
  | false =>
    have hn : ¬ 0 < s.offset := by have := hv h; omega
    exact (if_neg hn).trans (congrArg (veiled f p) (if_neg hn : eotFlush s = _).symm)

theorem roomCheck_veil (s : State) : roomCheck (veil id p s) = veiled id p (roomCheck s) :=
  map_ite (s.cfg.pageSize - s.offset < plen s) (flushProc_veil s) rfl

/-- A room check leaves the packet. -/
theorem roomCheck_payload {r : PortResult} (h : roomCheck s = .ok (r, u)) : payload u = payload s ∧ plen u = plen s := by
  unfold roomCheck at h
  split at h
  · rw [(flushProc_frame h).2.1]; exact ⟨rfl, rfl⟩
  · cases h; exact ⟨rfl, rfl⟩

/-- The accept path reads the payload of the packet, and the mirror only where FWE is initialised (R119, R140). -/
theorem acceptPacket_veil (hm : s.fweValid = true → f = id) (hp : p.take (plen s) = payload s) :
    acceptPacket (veil f p s) = (acceptPacket s).map (veil f p) := by
  cases h : s.fweValid with
  | false =>
    rw [acceptPacket_notInit h]
    exact acceptPacket_notInit (s := veil f p s) h
  | true =>
    obtain rfl := hm h
    refine map_ite (s.fweValid = true) (map_bind_of_ok (roomCheck_veil s) fun ⟨r, u⟩ hr => ?_) rfl
    cases r with
    | fail => rfl
    | ok =>
      obtain ⟨hpay, hplen⟩ := roomCheck_payload hr
      have hpu : payload (veil id p u) = payload u := by
        show p.take (plen u) = _
        rw [hplen, hpay, hp]
      exact map_bind ((congrArg (stage · _) hpu).trans (stage_veil (payload u) u)) fun v =>
        send_veil (f := id) (p := p) ack { v with expectedBlk := v.expectedBlk + 1 }

/-! ### The outcome of every instruction -/

theorem sameOutcome_ite (c : Prop) [Decidable c] {a a' b b' : Host.Outcome State Fault Refusal}
    (ha : c → SameOutcome a a') (hb : ¬ c → SameOutcome b b') :
    SameOutcome (if c then a else b) (if c then a' else b') := by
  by_cases hc : c
  · rw [if_pos hc, if_pos hc]; exact ha hc
  · rw [if_neg hc, if_neg hc]; exact hb hc

/-- A response says nothing of what the veil hides. -/
theorem Hides.sameOutcome_respond (h : Hides f p s) (c : RespCode) (v : Word) :
    SameOutcome (.next (respond c v s)) (.next (respond c v (veil f p s))) :=
  Hides.sameValues (s := respond c v s) (h.of_kept rfl rfl rfl rfl)

theorem Hides.xfrBlkinv (h : Hides f p s) (b : Byte) :
    SameOutcome (exec (.xfrBlkinv b) s) (exec (.xfrBlkinv b) (veil f p s)) := by
  refine sameOutcome_ite (s.blk + b = 0xFF) (fun hs => ?_) fun hs =>
    sameOutcome_finish (protocolFault_veil _ { s with blkInv := b }) fun u he => ?_
  · exact (h.of_exec (exec_xfrBlkinv_match hs) rfl rfl).sameValues
  · exact h.of_exec_waitStart (i := .xfrBlkinv b) ((if_neg hs).trans he) rfl (by rw [protocolFault_ok (finish_next.1 he)])

/-- The byte that is received joins the payload on both sides (R117). -/
theorem Hides.xfrData (h : Hides f p s) (hi : Inv s) (hl : p.length = maxPayload) (hx : s.xstate = .waitData) (b : Byte) :
    SameOutcome (exec (.xfrData b) s) (exec (.xfrData b) (veil f p s)) := by
  have hp := h.payload
  rw [payloadRead, hx] at hp
  have hlt := hi.pcount_lt_pbuf hx
  have hlt' : s.pcount.toNat < p.length := by rw [hl, ← hi.pbuf_length]; exact hlt
  refine Hides.sameValues (f := f) (p := p.set s.pcount.toNat b) (s := { s with
    pbuf := s.pbuf.set s.pcount.toNat b, pcount := s.pcount + 1
    xstate := if (s.pcount + 1).toNat = plen s then .waitCrcHigh else s.xstate }) ⟨h.mirror, ?_⟩
  have hr : payloadRead { s with
      pbuf := s.pbuf.set s.pcount.toNat b, pcount := s.pcount + 1
      xstate := if (s.pcount + 1).toNat = plen s then .waitCrcHigh else s.xstate } = s.pcount.toNat + 1 := by
    rw [← hi.pcount_succ hx, payloadRead, hx]
    split_ifs <;> rfl
  rw [hr, take_succ_set b hlt', take_succ_set b hlt, hp]

/-- The checksum is that of the payload received, whose every byte holds a value (R29, R119). -/
theorem Hides.xfrCrclo (h : Hides f p s) (hi : Inv s) (hx : s.xstate = .waitCrcLow) (b : Byte) :
    SameOutcome (exec (.xfrCrclo b) s) (exec (.xfrCrclo b) (veil f p s)) := by
  have hp := h.payload
  rw [payloadRead, hx] at hp
  replace hp : p.take (plen s) = s.pbuf.take (plen s) := by rw [← hi.wait_crc (.inr hx)]; exact hp
  have hc : checksummed b (veil f p s) = veil f p (checksummed b s) :=
    congrArg (fun l => veil f p { checksummed b s with crcCalc := crc16 l }) hp
  have hres : ∀ u, exec (.xfrCrclo b) s = .next u → Hides f p u := fun u he => h.of_exec_waitStart he rfl (by
    rcases exec_xfrCrclo_next he with ⟨d, hf⟩ | hs | ⟨-, -, ha⟩
    · rw [protocolFault_ok hf]
    · rw [send_ok hs]; rfl
    · rw [(acceptPacket_frame ha).1]; rfl)
  rw [exec_xfrCrclo] at hres
  rw [exec_xfrCrclo, exec_xfrCrclo, hc]
  exact sameOutcome_finish (map_ite _ (protocolFault_veil _ _) (map_ite _ (acceptPacket_veil h.mirror hp)
    (map_ite _ (send_veil ack _) (protocolFault_veil _ _)))) hres

/-- An EOT: the ACK, the flush of what is staged, and no packet after it (R112). -/
theorem Hides.xfrEot (h : Hides f p s) (hi : Inv s) :
    SameOutcome (exec .xfrEot s) (exec .xfrEot (veil f p s)) := by
  refine sameOutcome_finish (f := f) (p := p) (map_bind_of_ok (send_veil ack s) fun v hs =>
    map_bind (eotFlush_veil ?_ ?_) fun _ => rfl) fun u he => ?_
  · rw [send_ok hs]; exact h.mirror
  · rw [send_ok hs]; exact fun hv => (hi.not_init hv).1
  · obtain ⟨_, _, _, -, -, hu⟩ := exec_xfrEot_next (t := u) he
    exact h.of_exec_waitStart (i := .xfrEot) he rfl (by rw [hu]; rfl)

/-- FWE_INIT loads the mirror on both sides from the same storage (R93). -/
theorem Hides.fweInit (h : Hides f p s) (a : Word) :
    SameOutcome (exec (.fweInit a) s) (exec (.fweInit a) (veil f p s)) := by
  refine sameOutcome_ite (busy s = true) (fun _ => h.sameOutcome_respond _ _) fun hb =>
    sameOutcome_ite (a.toNat % s.cfg.pageSize ≠ 0) (fun _ => h.sameOutcome_respond _ _) fun ha =>
    sameOutcome_ite (¬ InStorage s.cfg a.toNat s.cfg.pageSize) (fun _ => h.sameOutcome_respond _ _) fun hin =>
    sameOutcome_finish (f := id) (p := p) (map_bind (loadMirror_veil { s with curAddr := a, offset := 0 }) fun _ => rfl)
      fun u he => ⟨fun _ => rfl, ?_⟩
  have hexec : exec (.fweInit a) s = .next u := (if_neg hb).trans ((if_neg ha).trans ((if_neg hin).trans he))
  rcases exec_fweInit_next hexec with ⟨c, rfl⟩ | ⟨-, -, -, l, -, rfl⟩
  · exact h.payload
  · exact h.payload

/-- FWE_STAGE writes the mirror only where it holds a value (R96). -/
theorem Hides.fweStage (h : Hides f p s) (l : Half) (d : List Byte) :
    SameOutcome (exec (.fweStage l d) s) (exec (.fweStage l d) (veil f p s)) := by
  refine sameOutcome_ite (busy s = true) (fun _ => h.sameOutcome_respond _ _) fun hb =>
    sameOutcome_ite (s.fweValid = false) (fun _ => h.sameOutcome_respond _ _) fun hv =>
    sameOutcome_ite (s.cfg.pageSize < s.offset + l.toNat) (fun _ => h.sameOutcome_respond _ _) fun ho => ?_
  obtain rfl := h.mirror (Bool.eq_true_of_not_eq_false hv)
  refine sameOutcome_finish (f := id) (p := p) (map_bind (stage_veil d s) fun _ => rfl) fun u he => ?_
  have hexec : exec (.fweStage l d) s = .next u := (if_neg hb).trans ((if_neg hv).trans ((if_neg ho).trans he))
  rcases exec_fweStage_next hexec with ⟨c, rfl⟩ | ⟨-, -, -, rfl⟩
  · exact h.of_kept rfl rfl rfl rfl
  · exact h.of_kept rfl rfl rfl rfl

/-- FWE_FLUSH reads the mirror only where it holds a value (R97, R105). -/
theorem Hides.fweFlush (h : Hides f p s) :
    SameOutcome (exec .fweFlush s) (exec .fweFlush (veil f p s)) := by
  refine sameOutcome_ite (busy s = true) (fun _ => h.sameOutcome_respond _ _) fun hb =>
    sameOutcome_ite (s.fweValid = false) (fun _ => h.sameOutcome_respond _ _) fun hv => ?_
  obtain rfl := h.mirror (Bool.eq_true_of_not_eq_false hv)
  refine sameOutcome_finish (f := id) (p := p)
    (map_bind (flushProc_veil s) fun ⟨r, _⟩ => map_result r rfl rfl) fun u he => ?_
  have hexec : exec .fweFlush s = .next u := (if_neg hb).trans ((if_neg hv).trans he)
  rcases exec_fweFlush_next hexec with ⟨c, rfl⟩ | ⟨-, -, r, v, c, x, hf, rfl⟩
  · exact h.of_kept rfl rfl rfl rfl
  · have hframe := (flushProc_frame hf).2.1
    rw [hframe]
    exact h.of_kept rfl rfl rfl rfl

theorem Hides.verVerify (h : Hides f p s) (a : Word) :
    SameOutcome (exec (.verVerify a) s) (exec (.verVerify a) (veil f p s)) := by
  refine sameOutcome_finish (f := f) (p := p) (map_bind (verifies_veil a.toNat s) fun _ => rfl) fun u he => ?_
  obtain ⟨v, l, -, rfl⟩ := exec_verVerify_next (a := a) he
  exact h.of_kept rfl rfl rfl rfl

theorem Hides.xfrProbe (h : Hides f p s) :
    SameOutcome (exec .xfrProbe s) (exec .xfrProbe (veil f p s)) := by
  refine sameOutcome_ite (s.xstatus = .idle) (fun hx => sameOutcome_finish (f := f) (p := p)
    (map_bind (send_veil probe s) fun _ => rfl) fun u he => ?_) fun _ => h.sameOutcome_respond _ _
  rcases exec_xfrProbe_next (t := u) ((if_pos hx).trans he) with ⟨-, v, hs, rfl⟩ | ⟨-, rfl⟩
  · rw [send_ok hs]; exact h.of_kept rfl rfl rfl rfl
  · exact h.of_kept rfl rfl rfl rfl

/-- Two states that differ only behind the veil have outcomes that differ only there. -/
theorem Hides.sameOutcome {i : Instr} (h : Hides f p s) (hi : Inv s) (hl : p.length = maxPayload) (hd : Dispatched s i) :
    SameOutcome (exec i s) (exec i (veil f p s)) := by
  cases i with
  | xfrSoh => exact (h.of_exec (i := .xfrSoh) (s := s) rfl rfl rfl).sameValues
  | xfrStx => exact (h.of_exec (i := .xfrStx) (s := s) rfl rfl rfl).sameValues
  | xfrEot => exact h.xfrEot hi
  | xfrCan => exact (h.of_exec_waitStart (i := .xfrCan) (s := s) rfl rfl rfl).sameValues
  | xfrNoise b => exact (h.of_exec (i := .xfrNoise b) (s := s) rfl rfl h.payload).sameValues
  | xfrBlknum b => exact (h.of_exec (i := .xfrBlknum b) (s := s) rfl rfl rfl).sameValues
  | xfrBlkinv b => exact h.xfrBlkinv b
  | xfrData b => exact h.xfrData hi hl (hd.xstate_eq rfl) b
  | xfrCrchi b =>
    have hp := h.payload
    rw [payloadRead, hd.xstate_eq (x := .waitCrcHigh) rfl] at hp
    exact (h.of_exec (i := .xfrCrchi b) (s := s) rfl rfl hp).sameValues
  | xfrCrclo b => exact h.xfrCrclo hi (hd.xstate_eq rfl) b
  | xfrStart =>
    exact sameOutcome_ite (busy s = true) (fun _ => h.sameOutcome_respond _ _) fun _ =>
      Hides.sameValues (s := respond .ok 0 { handleReset s with xstatus := .idle }) ⟨h.mirror, rfl⟩
  | xfrProbe => exact h.xfrProbe
  | rdreg n =>
    rw [exec_rdreg, exec_rdreg]
    exact h.sameOutcome_respond _ _
  | fweInit a => exact h.fweInit a
  | fweStage l d => exact h.fweStage l d
  | fweFlush => exact h.fweFlush
  | verVerify a => exact h.verVerify a

/-! ### The next event -/

/-- The veil over the state that a fetch finds. -/
def Fetched.veil (f : List Byte → List Byte) (p : List Byte) : Fetched → Fetched
  | .idle => .idle
  | .reset s => .reset (Machine.veil f p s)
  | .run i s => .run i (Machine.veil f p s)
  | .illegal s => .illegal (Machine.veil f p s)
  | .malformed => .malformed
  | .reserved => .reserved

theorem fetchByte_veil (s : State) : fetchByte (veil f p s) = (fetchByte s).veil f p := by
  cases h : s.rxPort with
  | nil => rw [fetchByte_nil h]; exact fetchByte_nil (s := veil f p s) h
  | cons b rest => rw [fetchByte_cons h]; exact fetchByte_cons (s := veil f p s) h

theorem fetchCommand_veil (s : State) : fetchCommand (veil f p s) = (fetchCommand s).veil f p := by
  have hport : (veil f p s).hostPort = s.hostPort := rfl
  unfold fetchCommand
  rw [hport]
  cases s.hostPort with
  | nil => rfl
  | cons c rest => rcases decodeCommand_cases c with ⟨i, hc⟩ | ⟨op, hc⟩ | ⟨hc, -⟩ <;> simp only [hc] <;> rfl

theorem fetchFavoured_veil (x : Bool) (s : State) : fetchFavoured x (veil f p s) = (fetchFavoured x s).veil f p := by
  have hrx : (veil f p s).rxPort = s.rxPort := rfl
  have hhost : (veil f p s).hostPort = s.hostPort := rfl
  unfold fetchFavoured
  rw [hrx, hhost, fetchByte_veil, fetchCommand_veil]
  cases x with
  | true => cases s.rxPort <;> rfl
  | false => cases s.hostPort <;> rfl

theorem fetch_sched_reset {q : List Turn} (h : s.sched = .reset :: q) : fetch s = .reset { s with sched := q } := by
  simp [fetch, h]

theorem fetch_veil (s : State) : fetch (veil f p s) = (fetch s).veil f p := by
  cases hs : s.sched with
  | nil =>
    by_cases hp : s.rxPort = [] ∨ s.hostPort = []
    · rw [fetch_unscheduled hs hp, fetch_unscheduled (s := veil f p s) hs hp]
      exact fetchFavoured_veil true s
    · obtain ⟨hr, hh⟩ := not_or.1 hp
      obtain ⟨b, bs, hr⟩ := List.exists_cons_of_ne_nil hr
      obtain ⟨c, cs, hh⟩ := List.exists_cons_of_ne_nil hh
      rw [fetch_race hs hr hh, fetch_race (s := veil f p s) hs hr hh]
      exact fetchFavoured_veil _ { s with drawCount := s.drawCount + 1 }
  | cons x q =>
    cases x with
    | byte =>
      rw [fetch_sched_byte hs, fetch_sched_byte (s := veil f p s) hs]
      exact fetchFavoured_veil true { s with sched := q }
    | command =>
      rw [fetch_sched_command hs, fetch_sched_command (s := veil f p s) hs]
      exact fetchFavoured_veil false { s with sched := q }
    | reset => rw [fetch_sched_reset hs, fetch_sched_reset (s := veil f p s) hs]; rfl

/-- Settles O17: what the schedule finds and what it runs are the same on both sides of the veil. -/
theorem unwrittenBytesAreNeverRead : Obligations.UnwrittenBytesAreNeverRead := by
  intro s t hi hit hst
  obtain ⟨f, h, ht⟩ := hst.exists_veil
  have hfetch : fetch t = (fetch s).veil f t.pbuf := by rw [← fetch_veil, ← ht]
  have hcfg : t.cfg = s.cfg := by rw [ht]; rfl
  have hf := fetch_spec s
  rw [step_valid hi.cfg_valid, step_valid hit.cfg_valid, hfetch]
  cases hs : fetch s with
  | idle => rfl
  | reset u => exact ⟨rfl, fun _ => rfl, rfl⟩
  | run i u =>
    rw [hs] at hf
    obtain ⟨hu, hd⟩ := hf
    have hk : Hides f t.pbuf u := h.of_kept (by rw [hu]) (by rw [hu]) (by rw [hu]) (by rw [hu])
    exact hk.sameOutcome (hi.consumed hu) hit.pbuf_length hd
  | illegal u =>
    rw [hs] at hf
    have hk : Hides f t.pbuf u := h.of_kept (by rw [hf]) (by rw [hf]) (by rw [hf]) (by rw [hf])
    exact hk.sameOutcome_respond .badCmd 0
  | malformed => rfl
  | reserved => rfl

end Sys2Proof.Machine
end
